-- ==== Sys2Proof/Word.lean ====
section
/-! DEFINITION. The fixed widths of the values that move through the machine (R7, R10, R57): bytes in,
32-bit symbol words out. All values are unsigned (R11). -/

namespace Sys2Proof

/-- A received byte or a response byte: `RX_BITS` = 8 bits (R7). -/
abbrev Byte := BitVec 8

/-- A hardware symbol word: `WORD_BITS` = 32 bits, 16 pair slots (R7, R80). -/
abbrev SymbolWord := BitVec 32

end Sys2Proof
end

