-- ==== Sys2Proof/Config.lean ====
section
/-! DEFINITION. The parameters of the hardware (R7): fixed ones as numbers, OPEN ones as fields of
`Params` whose installed value is a constant with no body, and the free values. -/

namespace Sys2Proof

/-- `OPC_PROBE` (R7, R73). -/
def Config.opcProbe : Byte := 0x00

/-- `OPC_ORIGIN` (R7, R73). -/
def Config.opcOrigin : Byte := 0x41

/-- `OPC_POLL` (R7, R73). -/
def Config.opcPoll : Byte := 0x40

/-- `POLL_PAYLOAD_BYTES`: command payload bytes that Poll discards (R7, R71). -/
def Config.pollPayloadBytes : Nat := 2

/-- `RECORD_BYTES`: width of a controller-state record; the spec's decision D5 (R7, R79), log 9. -/
abbrev Config.recordBytes : Nat := 10

/-- `MAX_RESPONSE_BYTES`: capacity of the response byte buffer (R7, R24). -/
abbrev Config.maxResponseBytes : Nat := Config.recordBytes

/-- `MAX_WORDS`: capacity of the symbol word buffer (R7, R25). -/
abbrev Config.maxWords : Nat := Config.maxResponseBytes / 2 + 1

/-- `TIME_W`: width of the microsecond time value; the spec's decision D6 (R7, R128), log 33. -/
abbrev Config.timeW : Nat := 64

/-- `FRAME_W`: width of the frame index; the spec's decision D7 (R7, R28), log 33. -/
abbrev Config.frameW : Nat := 64

/-- A time in microseconds (R128). -/
abbrev TimeUs := BitVec Config.timeW

/-- A frame index (R28). -/
abbrev FrameIdx := BitVec Config.frameW

/-- A ControllerStateRecord: an opaque fixed-size byte buffer (R79). -/
abbrev Record := Vector Byte Config.recordBytes

/-- The opaque channel configuration `chan_cfg` (R32): the clock-divider constant `CLKDIV` and the
rest ("channel configuration", "peripheral offset"), which no rule interprets. -/
structure ChanCfg where
  clkdiv : Nat
  rest : Nat
  deriving DecidableEq, Repr, Inhabited

/-- The Replay Frame Source `rfs`: a total function from frame index to record (R7, R173), written as
data. `table` answers the indices from 0 on, `rest` every index beyond it. There are finitely many
indices and the table has any length, so every total function is one of these (log 7). -/
structure Rfs where
  table : List Record
  rest : Record
  deriving DecidableEq, Repr, Inhabited

/-- The OPEN parameters of R7, fixed for the life of the machine. A state carries them so that a
statement about every state is about every value of them (log 7). -/
structure Params where
  /-- `PROBE_DELAY_US` (R101, D13). -/
  probeDelayUs : Nat
  /-- `RECOVER_SETTLE_US` (R151, D14). -/
  recoverSettleUs : Nat
  /-- `SC_FLUSH_ON_INIT`: re-initialisation drops received bytes not yet read (R153, D18). -/
  scFlushOnInit : Bool
  /-- The MODEL's own: re-initialisation drops accepted words not yet shifted; the spec is silent
  (DESIGN CHOICE, log 18). -/
  txFlushOnInit : Bool
  /-- `N_FRAMES`: how many frames the replay holds (R7). The core reads it nowhere (R118). -/
  nFrames : Nat
  /-- `rfs`: the Replay Frame Source (R7, R173). -/
  rfs : Rfs
  deriving DecidableEq, Repr, Inhabited

/-- The parameters the built hardware has: OPEN, so a constant with no body. -/
opaque Config.installed : Params

/-- The channel configuration that bring-up leaves in `chan_cfg` (R32, R33): OPEN. -/
opaque Config.chanCfg : ChanCfg

/-- The free value of the `n`-th time sample for which no reading is listed: nothing constrains it
(R17: the value of `Now` is chosen by the environment; log 10). -/
opaque Config.freeNow : Nat → TimeUs

end Sys2Proof
end

