-- ==== Sys2Proof/Syntax.lean ====
section
/-! DEFINITION. The wire command set (R2, R73): the instructions of this hardware. -/

namespace Sys2Proof

/-- One command frame (R70). Poll carries its two payload bytes (format CMD3), which are read and
ignored (R72); `recover` carries the unrecognised opcode, so that a frame can be written out again. -/
inductive Instr where
  /-- PROBE, opcode 0x00 (R100). -/
  | probe
  /-- ORIGIN, opcode 0x41 (R104). -/
  | origin
  /-- POLL, opcode 0x40 and two payload bytes (R110). -/
  | poll (pay0 pay1 : Byte)
  /-- RECOVER, every unrecognised opcode (R150). -/
  | recover (op : Byte)
  deriving DecidableEq, Repr

/-- The four rows of the opcode map (R73). -/
inductive Command where
  | probe
  | origin
  | poll
  | recover
  deriving DecidableEq, Repr

/-- The row of the opcode map an instruction belongs to. -/
def Instr.command : Instr → Command
  | .probe => .probe
  | .origin => .origin
  | .poll _ _ => .poll
  | .recover _ => .recover

end Sys2Proof
end

