-- ==== Sys2Proof/WellFormed.lean ====
section
/-! DEFINITION. Which instruction terms stand for a command frame: the one check is that the opcode
of RECOVER is none of the three recognised values (R74). -/

namespace Sys2Proof

/-- The byte is one of the three recognised opcodes (R74). -/
def recognised (b : Byte) : Bool :=
  b == Config.opcProbe || b == Config.opcOrigin || b == Config.opcPoll

/-- The instruction stands for a command frame of R73. -/
def Instr.wellFormed : Instr → Bool
  | .probe => true
  | .origin => true
  | .poll _ _ => true
  | .recover op => !recognised op

end Sys2Proof
end

