-- ==== Sys2Proof/Decode.lean ====
section
/-! DEFINITION. Decoding a received byte stream into command frames (R70 to R75), total on any bytes
and rejecting by name, and the encoder. The opcode map is also given as the table of match and mask
patterns of R74. -/

namespace Sys2Proof

/-- Why a byte sequence does not begin with a whole command frame. The core itself never rejects
(R75): it waits in a reading phase until the missing byte comes (R188). -/
inductive DecodeReject where
  /-- There is no opcode byte. -/
  | noByte
  /-- A Poll with fewer than two payload bytes so far (R190). -/
  | payloadMissing (got : Nat)
  deriving DecidableEq, Repr

/-- What decoding answers: a frame and the bytes after it, or a rejection by name. -/
inductive Decoded where
  | frame (i : Instr) (rest : List Byte)
  | rejected (why : DecodeReject)
  deriving DecidableEq, Repr

/-- DISPATCH's comparison (R74, R91): the instruction that opcode `b` selects. The length of a
command is decided by its opcode alone (R71), so this is total: a payload byte that has not come yet
stands as 0 in the term, which changes nothing, since no rule reads it (R72, R87). -/
def selects (b : Byte) (following : List Byte) : Instr :=
  if b = Config.opcProbe then .probe
  else if b = Config.opcOrigin then .origin
  else if b = Config.opcPoll then .poll (following.getD 0 0) (following.getD 1 0)
  else .recover b

/-- The number of bytes of a command frame, from its opcode alone (R71). -/
def frameLength (b : Byte) : Nat :=
  if b = Config.opcPoll then 1 + Config.pollPayloadBytes else 1

/-- Read one whole command frame from the front of a byte stream (R70). -/
def decode : List Byte → Decoded
  | [] => .rejected .noByte
  | b :: rest =>
    if rest.length + 1 < frameLength b then .rejected (.payloadMissing rest.length)
    else .frame (selects b rest) (rest.drop (frameLength b - 1))

/-- The bytes of a command frame as the host drives them (R70, R73, R86). -/
def encode : Instr → List Byte
  | .probe => [Config.opcProbe]
  | .origin => [Config.opcOrigin]
  | .poll pay0 pay1 => [Config.opcPoll, pay0, pay1]
  | .recover op => [op]

/-- A row of the opcode table: the command is selected when `opcode & mask = value` (R74). -/
structure OpcodeRow where
  command : Command
  mask : Byte
  value : Byte
  deriving DecidableEq, Repr

/-- The ten rows of the opcode map (R73, R76): one for each recognised opcode and the seven disjoint
patterns of R74 for the 253 others. -/
def opcodeRows : List OpcodeRow :=
  [⟨.probe, 0xFF, 0x00⟩, ⟨.origin, 0xFF, 0x41⟩, ⟨.poll, 0xFF, 0x40⟩,
   ⟨.recover, 0x80, 0x80⟩, ⟨.recover, 0xA0, 0x20⟩, ⟨.recover, 0xB0, 0x10⟩,
   ⟨.recover, 0xB8, 0x08⟩, ⟨.recover, 0xBC, 0x04⟩, ⟨.recover, 0xBE, 0x02⟩,
   ⟨.recover, 0xFF, 0x01⟩]

/-- The row's pattern matches the opcode byte. -/
def OpcodeRow.hits (r : OpcodeRow) (b : Byte) : Bool := b &&& r.mask == r.value

/-- The bytes of a table word in the order the host drives them: byte 0 is bits 7:0, byte 1 bits
15:8, byte 2 bits 23:16; bits at and above `nbits` are 0. Three bytes, the longest frame (R71). -/
def tableBytes (nbits w : Nat) : List Byte :=
  let v := w % 2 ^ nbits
  [BitVec.ofNat 8 v, BitVec.ofNat 8 (v / 256), BitVec.ofNat 8 (v / 65536)]

/-- The bytes of the one command frame that a table word holds (R71). -/
def tableFrame (nbits w : Nat) : List Byte :=
  match tableBytes nbits w with
  | [] => []
  | b :: rest => b :: rest.take (frameLength b - 1)

/-- The instruction the decoder reads from a table word. -/
def decodeTableWord (nbits w : Nat) : Option Instr :=
  match decode (tableFrame nbits w) with
  | .frame i _ => some i
  | .rejected _ => none

end Sys2Proof
end

