-- ==== Sys2Proof/Machine/State.lean ====
section
/-! DEFINITION. The state of the machine as plain data: the registers and buffers of R33, the Signal
Channel's own state (R36), the parameters (R7), and the model's own fields for what comes from
outside (coming readings, coming moves) and for what an observer sees (the event trace of R17). -/

namespace Sys2Proof.Machine

/-- The five states of the state machine (R21). -/
inductive Fsm where
  | listening
  | respondingProbe
  | respondingOrigin
  | respondingPoll
  | recovering
  deriving DecidableEq, Repr

/-- The steps within a state (R22, decision D3). -/
inductive Phase where
  | fetch
  | build
  | delay
  | mode
  | tx
  | pay0
  | pay1
  | time
  | lookup
  | disable
  | settle
  | init
  | enable
  deriving DecidableEq, Repr

/-- The program counter `pc = (fsm, phase)` (R13, R22). -/
structure Pc where
  fsm : Fsm
  phase : Phase
  deriving DecidableEq, Repr

/-- The legal pairs, in the order in which each handler takes them (table of R22). -/
def Pc.phasesOf : Fsm → List Phase
  | .listening => [.fetch]
  | .respondingProbe => [.build, .delay, .mode, .tx]
  | .respondingOrigin => [.build, .mode, .tx]
  | .respondingPoll => [.pay0, .pay1, .time, .lookup, .build, .mode, .tx]
  | .recovering => [.disable, .settle, .init, .enable]

/-- The pair stands in the table of R22. -/
def Pc.legal (p : Pc) : Bool := (Pc.phasesOf p.fsm).contains p.phase

/-- `(Listening, fetch)`: the core is between commands. -/
abbrev Pc.idle : Pc := ⟨.listening, .fetch⟩

/-- The channel's mode: Input ("awaiting command") or Output ("transmitting response") (R36 b). -/
inductive ChanMode where
  | input
  | output
  deriving DecidableEq, Repr

/-- The Signal Channel (R36, R171, R172). No rule of the core reads these fields but by waiting. -/
structure Channel where
  /-- `ch_enabled` (R36 a). -/
  enabled : Bool
  /-- `ch_mode` (R36 b). -/
  mode : ChanMode
  /-- The configuration the channel runs with (R172 e). -/
  cfg : ChanCfg
  /-- Received bytes the core has not taken yet, oldest first (R36 c). -/
  rx : List Byte
  /-- Accepted words not yet shifted out, oldest first (R36 d). -/
  tx : List SymbolWord
  /-- `tx_ready`: the transmit buffer would accept a word now (R171, log 17). -/
  txReady : Bool
  /-- The bits shifted out so far, oldest first (R53). -/
  line : List Bool
  deriving DecidableEq, Repr

/-- An event of the trace (R17): one primitive of R14 with its argument or result. -/
inductive Event where
  | rx (b : Byte)
  | tx (w : SymbolWord)
  | mode (m : ChanMode)
  | disable
  | enable
  | init (m : ChanMode)
  | now (t : TimeUs)
  | wait (n : Nat)
  | fetch (idx : FrameIdx) (rec : Record)
  deriving DecidableEq, Repr

/-- A move of one of the agents (R8), as a state's agenda lists them (log 2). -/
inductive Move where
  /-- The core performs one step at the grain of R9. -/
  | corePhase
  /-- The host drives a byte; `kept` says whether the channel samples it where the spec leaves that
  open (R193, log 16). -/
  | hostDrives (b : Byte) (kept : Bool)
  /-- The channel shifts the oldest accepted word out (R68). -/
  | channelShifts
  /-- The transmit buffer becomes ready or not ready for a word (R36 d, R171). -/
  | txReadyIs (ready : Bool)
  deriving DecidableEq, Repr

/-- An indexed store of `w`-bit elements (R37): the elements written so far, as (index, element)
pairs. `Memory 8` is a list of `Host.Cell`. An index that is not listed holds no value: reading it
is a fault of the model (R40, U13; log 6). -/
abbrev Memory (w : Nat) := List (Nat × BitVec w)

/-- The canonical form of a store: indices strictly rising, so that equal stores are equal lists. -/
def Memory.wf {w : Nat} : Memory w → Bool
  | [] => true
  | [_] => true
  | (a, _) :: (b, v) :: rest => decide (a < b) && Memory.wf ((b, v) :: rest)

/-- Why the machine stops with a fault. All of these are faults of the model (R40, R22) and no state
reachable from power-up raises one; each is SAFE: the machine stops where the spec gives no value. -/
inductive Fault where
  /-- The encoder read an element of `resp` that no step has written (R40, U13). Raised by a `build`
  phase. Safe. -/
  | unwrittenResp
  /-- A `tx` phase read an element of `words` that no step has written (R40, U13). Safe. -/
  | unwrittenWord
  /-- A response or its words do not fit the buffers of R24 and R25. Raised by `build` and `lookup`
  phases. Safe. -/
  | outsideBuffer
  /-- The pair (fsm, phase) is none of the legal pairs of R22. Raised by the phase table. Safe. -/
  | illegalPc
  deriving DecidableEq, Repr

/-- Why the model gives an execution no meaning. -/
inductive Refusal where
  /-- The instruction has no meaning in the model yet. Safe. No arm raises it. -/
  | notModelled (mnemonic : String)
  /-- The time source gave a reading earlier than the anchor: outside the spec, "a model refuses
  such an input" (R128, D22, U9). Raised by the `time` phase of a Poll. Safe. -/
  | timeBeforeAnchor
  deriving DecidableEq, Repr

/-- The whole state. -/
structure State where
  /-- `pc = (fsm, phase)` (R13, R22). -/
  pc : Pc
  /-- `opcode` (R23). -/
  opcode : Byte
  /-- `resp[0 .. MAX_RESPONSE_BYTES−1]`, the store RESP (R24, R37). -/
  resp : Memory 8
  /-- `resp_len` (R24). -/
  respLen : Nat
  /-- `words[0 .. MAX_WORDS−1]`, the store WORDS (R25, R37). -/
  words : Memory 32
  /-- `word_count` (R25). -/
  wordCount : Nat
  /-- `tx_idx` (R26). -/
  txIdx : Nat
  /-- `now_r` (R27). -/
  nowR : TimeUs
  /-- `frame_r` (R28). -/
  frameR : FrameIdx
  /-- `anchor` (R29). -/
  anchor : TimeUs
  /-- `anchor_valid`, the only flag of the core (R30, R34). -/
  anchorValid : Bool
  /-- `chan_cfg` (R32). -/
  chanCfg : ChanCfg
  /-- The Signal Channel (R36). -/
  chan : Channel
  /-- The parameters (R7), fixed for the life of the machine (log 7). -/
  params : Params
  /-- MODEL's own: the readings the time source will give, next first (R17, log 10). -/
  nowIn : List TimeUs
  /-- MODEL's own: how many free readings have been drawn (log 10). -/
  nowDraws : Nat
  /-- MODEL's own: the coming moves, next first (log 2). -/
  agenda : List Move
  /-- MODEL's own: the events performed so far, oldest first (R17, log 3). -/
  trace : List Event
  deriving DecidableEq, Repr

/-- What a step answers. -/
abbrev StepResult := Host.Outcome State Fault Refusal

/-- The Signal Channel as bring-up leaves it (R39, R172 a, R182): enabled, in Input mode, running
with `chan_cfg`; its buffers empty and ready (DESIGN CHOICE, log 17, log 20). -/
def Channel.afterBringUp (c : ChanCfg) : Channel :=
  { enabled := true, mode := .input, cfg := c, rx := [], tx := [], txReady := true, line := [] }

/-- Power-up and bring-up of a machine with parameters `p` and channel configuration `c` (R39,
R180): `pc = (Listening, fetch)`, `anchor_valid = 0`. The registers R39 leaves unspecified are 0
(DESIGN CHOICE, log 5) and the buffers hold nothing (log 6). -/
def State.powerUp (p : Params) (c : ChanCfg) : State :=
  { pc := .idle
    opcode := 0
    resp := []
    respLen := 0
    words := []
    wordCount := 0
    txIdx := 0
    nowR := 0
    frameR := 0
    anchor := 0
    anchorValid := false
    chanCfg := c
    chan := .afterBringUp c
    params := p
    nowIn := []
    nowDraws := 0
    agenda := []
    trace := [] }

/-- The machine right after reset (R39): power-up with the parameters and the channel configuration
the hardware has, whatever they are (OPEN, log 7, log 8). -/
def State.reset : State := .powerUp Config.installed Config.chanCfg

end Sys2Proof.Machine
end

