-- ==== Sys2Proof/Machine/Ops.lean ====
section
/-! DEFINITION. The operations the handlers share: reading and writing the stores (R12), the nine
primitives on the collaborators (R14), each one event of the trace (R17), control flow, and taking
and returning from the one exception (R163, R164). -/

namespace Sys2Proof.Machine

/-! ## Outcomes -/

/-- Go on with `f` if the first part answers a next state. -/
def andThen (x : StepResult) (f : State → StepResult) : StepResult :=
  match x with
  | .next s => f s
  | .fault r => .fault r
  | .refused r => .refused r

/-! ## The stores RESP and WORDS (R12, R37) -/

/-- Read one element; `none` where no step has written (R40, U13). -/
def Memory.read {w : Nat} : Memory w → Nat → Option (BitVec w)
  | [], _ => none
  | (b, v) :: rest, a => if a = b then some v else Memory.read rest a

/-- Write one element, keeping the indices strictly rising (R59: writes are plain). -/
def Memory.write {w : Nat} : Memory w → Nat → BitVec w → Memory w
  | [], a, v => [(a, v)]
  | (b, u) :: rest, a, v =>
    if a < b then (a, v) :: (b, u) :: rest
    else if a = b then (a, v) :: rest
    else (b, u) :: Memory.write rest a v

/-- `MemRead(space, a, n)` (R12): the `n` elements from index `a` on. -/
def memRead {w : Nat} (m : Memory w) (a : Nat) : Nat → Option (List (BitVec w))
  | 0 => some []
  | n + 1 =>
    match Memory.read m a, memRead m (a + 1) n with
    | some v, some vs => some (v :: vs)
    | _, _ => none

/-- `MemWrite(space, a, n, v)` (R12): the elements of `vs` from index `a` on. -/
def memWrite {w : Nat} (m : Memory w) (a : Nat) : List (BitVec w) → Memory w
  | [] => m
  | v :: vs => memWrite (Memory.write m a v) (a + 1) vs

/-! ## The event trace (R17) -/

/-- Perform an event. -/
def emit (e : Event) (s : State) : State := { s with trace := s.trace ++ [e] }

/-! ## The program counter (R13, R22) -/

/-- `pc <- (fsm, phase)`. -/
def goto (f : Fsm) (p : Phase) (s : State) : State := { s with pc := ⟨f, p⟩ }

/-- Advance `phase` within the same state. -/
def goPhase (p : Phase) (s : State) : State := { s with pc := ⟨s.pc.fsm, p⟩ }

/-- `pc <- (Listening, fetch)` (R92). -/
def toListening (s : State) : State := goto .listening .fetch s

/-! ## Primitives on the Signal Channel (R14, R59, R172) -/

/-- `SC.read8()`: take the oldest received byte; `none` while there is none (R14, R58). -/
def scRead8 (s : State) : Option (Byte × State) :=
  match s.chan.rx with
  | [] => none
  | b :: rest => some (b, emit (.rx b) { s with chan := { s.chan with rx := rest } })

/-- The transmit buffer accepts a word now: enabled, in Output mode and ready (R172 c, R189). -/
def accepts (c : Channel) : Bool := c.enabled && c.mode == .output && c.txReady

/-- `SC.write32(w)`: append `w` to the transmit buffer; `none` while it accepts nothing (R14, R59). -/
def scWrite32 (w : SymbolWord) (s : State) : Option State :=
  if accepts s.chan then
    some (emit (.tx w) { s with chan := { s.chan with tx := s.chan.tx ++ [w] } })
  else none

/-- `SC.set_mode(m)` (R14). -/
def scSetMode (m : ChanMode) (s : State) : State :=
  emit (.mode m) { s with chan := { s.chan with mode := m } }

/-- `SC.disable()` (R172 d). -/
def scDisable (s : State) : State :=
  emit .disable { s with chan := { s.chan with enabled := false } }

/-- `SC.enable()` (R172 f). -/
def scEnable (s : State) : State :=
  emit .enable { s with chan := { s.chan with enabled := true } }

/-- `SC.init(m)`: restore the bring-up configuration with the mode set to `m` (R172 e). Received bytes
not yet read are dropped if SC_FLUSH_ON_INIT (R153); accepted words likewise by the model's own
parameter (log 18). -/
def scInit (m : ChanMode) (s : State) : State :=
  emit (.init m)
    { s with
      chan :=
        { s.chan with
          cfg := s.chanCfg
          mode := m
          rx := if s.params.scFlushOnInit then [] else s.chan.rx
          tx := if s.params.txFlushOnInit then [] else s.chan.tx } }

/-! ## Primitives on the time source, the delay unit and the Replay Frame Source (R14) -/

/-- The reading the time source gives next: the next listed one, else a free value (R17, log 10). -/
def nextReading (s : State) : TimeUs :=
  match s.nowIn with
  | t :: _ => t
  | [] => Config.freeNow s.nowDraws

/-- The state after that reading has been used up. -/
def dropReading (s : State) : State :=
  match s.nowIn with
  | _ :: rest => { s with nowIn := rest }
  | [] => { s with nowDraws := s.nowDraws + 1 }

/-- `now_r <- TS.now()` (R27, R110). -/
def tsNow (s : State) : State :=
  { emit (.now (nextReading s)) (dropReading s) with nowR := nextReading s }

/-- `DLY.wait(n)` (R14): the wait is over when at least `n` microseconds have passed (R63), so it is
one event and takes no other effect (R197, log 22). -/
def dlyWait (n : Nat) (s : State) : State := emit (.wait n) s

/-! ## The exception (R15, R160 to R164) -/

/-- The complete list of exceptions (R160). -/
inductive Exc where
  | unknownCommand (op : Byte)
  deriving DecidableEq, Repr

/-- Taking an exception: `pc <- (Recovering, disable)` and nothing else. No program counter, cause,
status or opcode is saved, no mode changes (R15, R163). -/
def takeException (e : Exc) (s : State) : State :=
  match e with
  | .unknownCommand _ => goto .recovering .disable s

/-- Return from the exception: `pc <- (Listening, fetch)`; there is nothing to restore (R164). -/
def exceptionReturn (s : State) : State := toListening s

end Sys2Proof.Machine
end

