-- ==== Sys2Proof/Machine/Listener.lean ====
section
/-! DEFINITION. The Bus Listener and Command Dispatcher (40_dispatcher.md): FETCH and DISPATCH. -/

namespace Sys2Proof.Machine

/-- FETCH: `opcode <- SC.read8()`; `none` while the host has driven no byte (R90, R188). -/
def fetchOpcode (s : State) : Option State :=
  match scRead8 s with
  | none => none
  | some (b, s') => some { s' with opcode := b }

/-- The instruction that the register `opcode` selects, with what the channel has received after it
(R74, R91). -/
def fetchedInstr (s : State) : Instr := selects s.opcode s.chan.rx

/-- DISPATCH: the first step of the handler; every unrecognised opcode raises UnknownCommand (R91). -/
def dispatch (i : Instr) (s : State) : State :=
  match i with
  | .probe => goto .respondingProbe .build s
  | .origin => goto .respondingOrigin .build s
  | .poll _ _ => goto .respondingPoll .pay0 s
  | .recover op => takeException (.unknownCommand op) s

/-- The step of `(Listening, fetch)`: FETCH, then DISPATCH in the same step (R90, R91). -/
def fetchPhase (s : State) : StepResult :=
  match fetchOpcode s with
  | none => .next s
  | some s' => .next (dispatch (fetchedInstr s') s')

end Sys2Proof.Machine
end

