-- ==== Sys2Proof/Machine/Flags.lean ====
section
/-! DEFINITION. The only flag of the core is `anchor_valid` (R30, R34): set together with `anchor` by
the first Poll, read by every Poll, never cleared. There are no condition codes. -/

namespace Sys2Proof.Machine

/-- The Poll in its `time` phase is the first after power-up (R30, R116). -/
def firstPoll (s : State) : Bool := !s.anchorValid

/-- `anchor <- now; anchor_valid <- 1` (R120, first branch). -/
def setAnchor (now : TimeUs) (s : State) : State := { s with anchor := now, anchorValid := true }

end Sys2Proof.Machine
end

