-- ==== Sys2Proof/Machine/FrameSync.lean ====
section
/-! DEFINITION. The Frame-Time Synchronizer (43_frame_sync.md): the frame function and SYNC. -/

namespace Sys2Proof.Machine

/-- Numerator of `FRAME_RATE` = 59.94 = 2997/50 frames a second (R7, R123). -/
def frameNum : Nat := 2997

/-- 50 times the microseconds of a second: `US_PER_FRAME` = 50,000,000/2997 (R7, R123). -/
def frameDen : Nat := 50000000

/-- `frame_of(d) = (d · 2997) div 50,000,000`, the product at full width (R123, R125). -/
def frameOf (d : TimeUs) : FrameIdx := BitVec.ofNat Config.frameW (d.toNat * frameNum / frameDen)

/-- `frame_r <- SYNC(now_r)` (R110, R120). A reading earlier than the anchor is outside the spec and
is refused (R128, D22; log 11). -/
def sync (s : State) : StepResult :=
  if firstPoll s then .next { setAnchor s.nowR s with frameR := 0 }
  else if s.nowR < s.anchor then .refused .timeBeforeAnchor
  else .next { s with frameR := frameOf (s.nowR - s.anchor) }

end Sys2Proof.Machine
end

