-- ==== Sys2Proof/Machine/Operands.lean ====
section
/-! DEFINITION. Where the bytes of a response come from: the constant store ROM (R35, R37) for Probe
and Origin, the Replay Frame Source (R118, R173) for Poll. Commands have no operands (R72). -/

namespace Sys2Proof.Machine

/-- `PROBE_PAYLOAD` (R35, R77). -/
def probePayload : List Byte := [0x09, 0x00, 0x03]

/-- `ORIGIN_PAYLOAD` (R35, R77, R78; byte 1 is 0x80 by 90_conflicts C2). -/
def originPayload : List Byte := [0x00, 0x80, 0x80, 0x80, 0x80, 0x80, 0x00, 0x00, 0x00, 0x00]

/-- `NEUTRAL`: ORIGIN_PAYLOAD followed by zero bytes up to RECORD_BYTES (R118, D12). -/
def neutralRecord : Record := Vector.ofFn fun i => originPayload.getD i.val 0

/-- `RFS.fetch(idx)`: total and pure (R58, R173). -/
def rfsFetch (r : Rfs) (idx : FrameIdx) : Record := r.table.getD idx.toNat r.rest

/-- The spec's default wrapper of a replay: the recorded frame, or the neutral record for an index at or
beyond N_FRAMES (R118, D12; out of range means `idx ≥ N_FRAMES` by 90_conflicts C8; log 23). -/
def defaultRfs (recorded : List Record) : Rfs := { table := recorded, rest := neutralRecord }

/-- The parameters with a replay of recorded frames loaded behind that wrapper. -/
def loadReplay (recorded : List Record) (p : Params) : Params :=
  { p with nFrames := recorded.length, rfs := defaultRfs recorded }

/-- The bytes of a record in index order (R79, R113). -/
def recordBytesOf (r : Record) : List Byte := (List.finRange Config.recordBytes).map r.get

end Sys2Proof.Machine
end

