-- ==== Sys2Proof/Machine/SymbolEncoder.lean ====
section
/-! DEFINITION. The Symbol Encoder (44_symbol_encoder.md): the pure function from response bytes to
32-bit symbol words, bit by bit as rules R137 to R139 place them, and the closed form, the decoding
law and the bit stream as functions of their own. -/

namespace Sys2Proof.Machine

/-- Word count: 0 for an empty response, else `⌊len/2⌋ + 1` (R136). -/
def symbolWordCount (len : Nat) : Nat := if len = 0 then 0 else len / 2 + 1

/-- Bit `p` of word `k` of the encoding of `s`. The bit lies in pair slot `p / 2`; slots 0 to 7 of word
`k` belong to byte `2k`, slots 8 to 15 to byte `2k + 1`; slot `8·(i mod 2) + j` holds source bit `j` of
byte `i`, which is `s[i][7−j]`. Odd bits of a data pair are the enable marker 1 and even bits the
data bit (R137); both bits of the pair slot after the last data pair are 1 (R138); all else is 0 (R139). -/
def symbolBit (s : List Byte) (k p : Nat) : Bool :=
  let i := 2 * k + p / 2 / 8
  let j := p / 2 % 8
  if i < s.length then p % 2 == 1 || (s.getD i 0).getLsbD (7 - j)
  else i == s.length && j == 0

/-- Word `k` of the encoding. -/
def symbolWord (s : List Byte) (k : Nat) : SymbolWord := BitVec.ofFnLE fun p => symbolBit s k p.val

/-- `encode(s)` (R135), total on every length (R144). -/
def symbolEncode (s : List Byte) : List SymbolWord :=
  (List.range (symbolWordCount s.length)).map (symbolWord s)

/-- `spread(b)`: bit `2k+1` is 1 and bit `2k` is `b[7−k]` (R140). -/
def spread (b : Byte) : BitVec 16 :=
  BitVec.ofFnLE fun p => p.val % 2 == 1 || b.getLsbD (7 - p.val / 2)

/-- The words of the half-word closed form of R140, for a non-empty response or what is left of one. -/
def halfWordTail : List Byte → List SymbolWord
  | [] => [0x00000003]
  | [b] => [(spread b).setWidth 32 ||| 0x00030000]
  | e :: o :: rest => ((spread e).setWidth 32 ||| (spread o).setWidth 32 <<< 16) :: halfWordTail rest

/-- The half-word form of `encode` (R140). -/
def halfWordEncode : List Byte → List SymbolWord
  | [] => []
  | b :: rest => halfWordTail (b :: rest)

/-- The bits of a word in the order the channel shifts them out: bit 0 first (R53). -/
def wordBits (w : SymbolWord) : List Bool := (List.range 32).map w.getLsbD

/-- The bit stream of a frame: the words in order, each from bit 0 upward (R53, R141). -/
def frameBits (ws : List SymbolWord) : List Bool := ws.flatMap wordBits

/-- The pairs of one response byte as they leave: most significant bit first, each data bit followed by
its enable bit (R51, R53). -/
def byteStream (b : Byte) : List Bool :=
  (List.range 8).flatMap fun j => [b.getLsbD (7 - j), true]

/-- Data bit `j` (0 is the most significant) of byte `i`, extracted from the words (R142). -/
def dataBit (ws : List SymbolWord) (i j : Nat) : Bool :=
  (ws.getD (i / 2) 0).getLsbD (2 * (8 * (i % 2) + j))

/-- Byte `i` rebuilt from the data bits of the words, most significant bit first (R142). -/
def decodedByte (ws : List SymbolWord) (i : Nat) : Byte :=
  BitVec.ofFnLE fun p => dataBit ws i (7 - p.val)

/-- The first `len` bytes rebuilt from the words by extracting only the non-enable bits (R142). -/
def symbolDecode (len : Nat) (ws : List SymbolWord) : List Byte :=
  (List.range len).map (decodedByte ws)

/-- The word is the last of its frame: its last pair slot is empty. A frame's last word has zero bits
after the end marker and every other word of it is full of enabled pairs (R139, R145). DEDUCED: how
the channel knows is not in the spec (N11, log 15). -/
def endsFrame (w : SymbolWord) : Bool := !w.getLsbD 31

end Sys2Proof.Machine
end

