-- ==== Sys2Proof/Machine/Transmit.lean ====
section
/-! DEFINITION. What the three responding handlers share: filling RESP, encoding it into WORDS, and
TRANSMIT, the phases `mode` and `tx` (R103). -/

namespace Sys2Proof.Machine

/-- `resp[0 ..] <- bs; resp_len <- len(bs)`. A response longer than the buffer would be outside the
store of R24; none is (R107). -/
def loadResponse (bs : List Byte) (s : State) : StepResult :=
  if bs.length ≤ Config.maxResponseBytes then
    .next { s with resp := memWrite s.resp 0 bs, respLen := bs.length }
  else .fault .outsideBuffer

/-- `words[0 ..] <- encode(resp[0 .. resp_len−1]); word_count <- len` (R25, R135). -/
def encodeResponse (s : State) : StepResult :=
  match memRead s.resp 0 s.respLen with
  | none => .fault .unwrittenResp
  | some bs =>
    if (symbolEncode bs).length ≤ Config.maxWords then
      .next { s with words := memWrite s.words 0 (symbolEncode bs), wordCount := (symbolEncode bs).length }
    else .fault .outsideBuffer

/-- Phase `mode`: `SC.set_mode(Output); tx_idx <- 0`, or nothing at all when there are no words (R103). -/
def modePhase (s : State) : StepResult :=
  if s.wordCount = 0 then .next (toListening s)
  else .next (goPhase .tx { scSetMode .output s with txIdx := 0 })

/-- One step of phase `tx`: `SC.write32(words[tx_idx]); tx_idx <- tx_idx + 1`, and back to Listening
when that was the last word (R26, R103). While the channel accepts nothing the step waits (R189). -/
def txPhase (s : State) : StepResult :=
  if s.txIdx < s.wordCount then
    match Memory.read s.words s.txIdx with
    | none => .fault .unwrittenWord
    | some w =>
      match scWrite32 w s with
      | none => .next s
      | some s' =>
        if s.txIdx + 1 < s.wordCount then .next { s' with txIdx := s.txIdx + 1 }
        else .next (toListening { s' with txIdx := s.txIdx + 1 })
  else .next (toListening s)

end Sys2Proof.Machine
end

