-- ==== Sys2Proof/Machine/Poll.lean ====
section
/-! DEFINITION. The phases of the Poll handler before TRANSMIT (42_poll.md, R110). -/

namespace Sys2Proof.Machine

/-- `(RespondingPoll, pay0)` and `(RespondingPoll, pay1)`: read a payload byte, drop it, go to `p`; wait
while there is none (R111, R188). -/
def payloadPhase (p : Phase) (s : State) : StepResult :=
  match scRead8 s with
  | none => .next s
  | some (_, s') => .next (goPhase p s')

/-- `(RespondingPoll, time)`: `now_r <- TS.now(); frame_r <- SYNC(now_r)`, one sample a Poll (R112). -/
def pollTime (s : State) : StepResult :=
  andThen (sync (tsNow s)) fun s => .next (goPhase .lookup s)

/-- `(RespondingPoll, lookup)`: `resp <- RFS.fetch(frame_r)`, the record unchanged (R113). -/
def pollLookup (s : State) : StepResult :=
  andThen
    (loadResponse (recordBytesOf (rfsFetch s.params.rfs s.frameR))
      (emit (.fetch s.frameR (rfsFetch s.params.rfs s.frameR)) s)) fun s =>
  .next (goPhase .build s)

/-- `(RespondingPoll, build)`: encode the record; no delay phase follows (R110, R114). -/
def pollBuild (s : State) : StepResult :=
  andThen (encodeResponse s) fun s => .next (goPhase .mode s)

end Sys2Proof.Machine
end

