-- ==== Sys2Proof/Machine/ProbeOrigin.lean ====
section
/-! DEFINITION. The phases of the Probe and Origin handlers before TRANSMIT (41_probe_origin.md). -/

namespace Sys2Proof.Machine

/-- `(RespondingProbe, build)`: assemble PROBE_PAYLOAD and encode it (R100). -/
def probeBuild (s : State) : StepResult :=
  andThen (loadResponse probePayload s) fun s =>
  andThen (encodeResponse s) fun s =>
  .next (goPhase .delay s)

/-- `(RespondingProbe, delay)`: `DLY.wait(PROBE_DELAY_US)` (R100, R101). -/
def probeDelay (s : State) : StepResult := .next (goPhase .mode (dlyWait s.params.probeDelayUs s))

/-- `(RespondingOrigin, build)`: assemble ORIGIN_PAYLOAD and encode it; no delay (R104). -/
def originBuild (s : State) : StepResult :=
  andThen (loadResponse originPayload s) fun s =>
  andThen (encodeResponse s) fun s =>
  .next (goPhase .mode s)

end Sys2Proof.Machine
end

