-- ==== Sys2Proof/Machine/Recover.lean ====
section
/-! DEFINITION. The phases of the Fail/Recovery handler (45_fail_recover.md, R150). -/

namespace Sys2Proof.Machine

/-- `(Recovering, disable)`: `SC.disable()` (R150). -/
def recoverDisable (s : State) : StepResult := .next (goPhase .settle (scDisable s))

/-- `(Recovering, settle)`: `DLY.wait(RECOVER_SETTLE_US)` (R150, R151). -/
def recoverSettle (s : State) : StepResult :=
  .next (goPhase .init (dlyWait s.params.recoverSettleUs s))

/-- `(Recovering, init)`: `SC.init(Input)` (R150, R172 e). -/
def recoverInit (s : State) : StepResult := .next (goPhase .enable (scInit .input s))

/-- `(Recovering, enable)`: `SC.enable()`, then the return of R164. -/
def recoverEnable (s : State) : StepResult := .next (exceptionReturn (scEnable s))

end Sys2Proof.Machine
end

