-- ==== Sys2Proof/Machine/Phases.lean ====
section
/-! DEFINITION. The phase table of R22 (one core step at the grain of R9), when the core waits, and
running a handler to its end. -/

namespace Sys2Proof.Machine

/-- One core step: the step of the phase `pc` stands at (table of R22). -/
def phaseStep (s : State) : StepResult :=
  match s.pc with
  | ⟨.listening, .fetch⟩ => fetchPhase s
  | ⟨.respondingProbe, .build⟩ => probeBuild s
  | ⟨.respondingProbe, .delay⟩ => probeDelay s
  | ⟨.respondingProbe, .mode⟩ => modePhase s
  | ⟨.respondingProbe, .tx⟩ => txPhase s
  | ⟨.respondingOrigin, .build⟩ => originBuild s
  | ⟨.respondingOrigin, .mode⟩ => modePhase s
  | ⟨.respondingOrigin, .tx⟩ => txPhase s
  | ⟨.respondingPoll, .pay0⟩ => payloadPhase .pay1 s
  | ⟨.respondingPoll, .pay1⟩ => payloadPhase .time s
  | ⟨.respondingPoll, .time⟩ => pollTime s
  | ⟨.respondingPoll, .lookup⟩ => pollLookup s
  | ⟨.respondingPoll, .build⟩ => pollBuild s
  | ⟨.respondingPoll, .mode⟩ => modePhase s
  | ⟨.respondingPoll, .tx⟩ => txPhase s
  | ⟨.recovering, .disable⟩ => recoverDisable s
  | ⟨.recovering, .settle⟩ => recoverSettle s
  | ⟨.recovering, .init⟩ => recoverInit s
  | ⟨.recovering, .enable⟩ => recoverEnable s
  | _ => .fault .illegalPc

/-- The phase reads a byte: the three reading phases of R65. -/
def reading (s : State) : Bool :=
  s.pc == .idle || s.pc == ⟨.respondingPoll, .pay0⟩ || s.pc == ⟨.respondingPoll, .pay1⟩

/-- The core cannot complete its phase before another agent moves: no received byte in a reading
phase, or a word to write that the channel does not accept (R65, R66, R188, R189). -/
def waits (s : State) : Bool :=
  (reading s && s.chan.rx.isEmpty) ||
    (s.pc.phase == .tx && decide (s.txIdx < s.wordCount) && !accepts s.chan)

/-- Run the handler phase by phase until the core is back at `(Listening, fetch)` or waits; at most
`fuel` phases (R92). -/
def runHandler : Nat → State → StepResult
  | 0, s => .next s
  | fuel + 1, s =>
    if s.pc = .idle then .next s
    else if waits s then .next s
    else andThen (phaseStep s) (runHandler fuel)

/-- Enough phases for the longest handler, Poll: six before `tx` and one for each word (R22, R25). -/
def handlerFuel : Nat := 6 + Config.maxWords

end Sys2Proof.Machine
end

