-- ==== Sys2Proof/Machine/Commands.lean ====
section
/-! DEFINITION. The meaning of each command once its opcode has been read: from DISPATCH through every
step of its handler in the order of R22, back to `(Listening, fetch)` (R92). Where the core must wait
(no payload byte yet, a word not accepted) the answer is the state it waits in; the next step goes on
from there (R188, R189). -/

namespace Sys2Proof.Machine

/-- PROBE (R100): build, delay, mode, tx. -/
def execProbe (s : State) : StepResult := runHandler handlerFuel (dispatch .probe s)

/-- ORIGIN (R104): build, mode, tx. -/
def execOrigin (s : State) : StepResult := runHandler handlerFuel (dispatch .origin s)

/-- POLL (R110): pay0, pay1, time, lookup, build, mode, tx. The payload bytes are read from the channel
by the handler and dropped (R72, R111). -/
def execPoll (pay0 pay1 : Byte) (s : State) : StepResult :=
  runHandler handlerFuel (dispatch (.poll pay0 pay1) s)

/-- RECOVER (R150): take UnknownCommand (R163), then disable, settle, init, enable, and return (R164). -/
def execRecover (op : Byte) (s : State) : StepResult :=
  runHandler handlerFuel (dispatch (.recover op) s)

end Sys2Proof.Machine
end

