-- ==== Sys2Proof/Machine/Dispatch.lean ====
section
/-! DEFINITION. The meaning of each instruction, one arm a constructor. -/

namespace Sys2Proof.Machine

def exec (i : Instr) (s : State) : Host.Outcome State Fault Refusal :=
  match i with
  | .probe => Sys2Proof.Machine.execProbe s
  | .origin => Sys2Proof.Machine.execOrigin s
  | .poll pay0 pay1 => Sys2Proof.Machine.execPoll pay0 pay1 s
  | .recover op => Sys2Proof.Machine.execRecover op s

end Sys2Proof.Machine
end

