-- ==== Sys2Proof/Machine/Environment.lean ====
section
/-! DEFINITION. The moves of the agents outside the core (R8, R172, R174): the host drives a byte, the
channel shifts a word out, the transmit buffer becomes ready or not. None of them touches a register
of the core. -/

namespace Sys2Proof.Machine

/-- The host drives byte `b` onto the bus. A disabled channel does not sample (R172 d). An enabled one in
Input mode delivers the byte to the reading core (R172 b). In every other case the spec leaves open
whether the channel keeps the byte (R193, N9, N10), and `kept` says it (log 16). -/
def hostDrives (b : Byte) (kept : Bool) (s : State) : State :=
  if s.chan.enabled && ((s.chan.mode == .input && reading s) || kept) then
    { s with chan := { s.chan with rx := s.chan.rx ++ [b] } }
  else s

/-- The channel shifts its oldest accepted word out, bit 0 first, if it is enabled and in Output mode;
after the word that ends a frame it is back in Input mode (R53, R64, R68, R172 c, d). -/
def channelShifts (s : State) : State :=
  match s.chan.tx with
  | [] => s
  | w :: rest =>
    if s.chan.enabled && s.chan.mode == .output then
      { s with
        chan :=
          { s.chan with
            tx := rest
            line := s.chan.line ++ wordBits w
            mode := if endsFrame w then .input else .output } }
    else s

/-- The transmit buffer becomes ready or not ready for a word (R36 d, R171; log 17). -/
def txReadyIs (ready : Bool) (s : State) : State :=
  { s with chan := { s.chan with txReady := ready } }

/-- Perform a move of the agenda: one step of the core (R9) or a move outside it. -/
def perform (m : Move) (s : State) : StepResult :=
  match m with
  | .corePhase => phaseStep s
  | .hostDrives b kept => .next (hostDrives b kept s)
  | .channelShifts => .next (channelShifts s)
  | .txReadyIs ready => .next (txReadyIs ready s)

end Sys2Proof.Machine
end

