-- ==== Sys2Proof/Machine/Step.lean ====
section
/-! DEFINITION. One step of the machine. A listed move of the agenda comes first; without one, the core
reads an opcode and runs the command it selects, or goes on with the command in hand (log 1, log 2). -/

namespace Sys2Proof.Machine

/-- One command of the core: FETCH, then the meaning of the instruction the opcode selects (R92); at a
pc inside a handler, the rest of that handler. With no byte to fetch the core waits, and the state stays
as it is (R188). -/
def runCommand (s : State) : Host.Outcome State Fault Refusal :=
  if s.pc = .idle then
    match fetchOpcode s with
    | none => .next s
    | some s' => exec (fetchedInstr s') s'
  else runHandler handlerFuel s

/-- One step of the machine. -/
def step (s : State) : Host.Outcome State Fault Refusal :=
  match s.agenda with
  | [] => runCommand s
  | m :: rest => perform m { s with agenda := rest }

/-- The command frame of a table word stands where the next step fetches: at the front of the received
bytes, with the core at `(Listening, fetch)` and no move listed before it (log 25). -/
def State.withFetchWord (s : State) (nbits w : Nat) : State :=
  { s with
    pc := .idle
    agenda := []
    chan := { s.chan with rx := tableFrame nbits w ++ s.chan.rx } }

end Sys2Proof.Machine
end

