-- ==== Sys2Proof/Safety.lean ====
section
/-! DEFINITION. The terms in which claims speak of runs: a safe step, the invariant of the machine, runs
of core steps, what an observer reads off the event trace (R17), when a finite script has been handled
(R185), and the fairness premises (R189, D29). -/

namespace Sys2Proof.Machine

/-- The step completes: it is neither a fault nor a refusal. -/
def Safe (s : State) : Prop := ∃ t, step s = .next t

/-- The channel is switched off: `Recovering` between `SC.disable()` and `SC.enable()` (R150, R172 g). -/
def Pc.channelOff (p : Pc) : Bool :=
  p.fsm == .recovering && (p.phase == .settle || p.phase == .init || p.phase == .enable)

/-- The invariant of the machine. -/
structure StateInv (s : State) : Prop where
  /-- `pc` is one of the legal pairs (R22). -/
  pcLegal : s.pc.legal = true
  /-- RESP is in canonical form and inside R24's range. -/
  respCanonical : Memory.wf s.resp = true
  respInside : ∀ c ∈ s.resp, c.1 < Config.maxResponseBytes
  respLenFits : s.respLen ≤ Config.maxResponseBytes
  /-- WORDS is in canonical form and inside R25's range. -/
  wordsCanonical : Memory.wf s.words = true
  wordsInside : ∀ c ∈ s.words, c.1 < Config.maxWords
  wordCountFits : s.wordCount ≤ Config.maxWords
  txIdxFits : s.txIdx ≤ Config.maxWords
  /-- From the end of `build` to the end of `tx` the counted words are written (R25, R40). -/
  wordsWritten : s.pc.phase = .delay ∨ s.pc.phase = .mode ∨ s.pc.phase = .tx →
    0 < s.wordCount ∧ ∀ k < s.wordCount, (Memory.read s.words k).isSome = true
  /-- In `tx` a word is left to write (R26). -/
  txUnderway : s.pc.phase = .tx → s.txIdx < s.wordCount
  /-- Before Poll's `build` the whole record is in RESP (R40, R110). -/
  recordLoaded : s.pc = ⟨.respondingPoll, .build⟩ →
    s.respLen = Config.recordBytes ∧ ∀ k < s.respLen, (Memory.read s.resp k).isSome = true
  /-- The channel is enabled except inside `Recovering` (R172 a, g). -/
  channelOn : s.chan.enabled = !s.pc.channelOff
  /-- The channel runs with `chan_cfg` (R32, R172 e). -/
  channelConfigured : s.chan.cfg = s.chanCfg

/-- `n` core steps at the grain of R9. -/
def phaseRun : Nat → State → StepResult
  | 0, s => .next s
  | n + 1, s => andThen (phaseStep s) (phaseRun n)

/-- The first reading of the time source in a trace. -/
def firstNow : List Event → Option TimeUs
  | [] => none
  | .now t :: _ => some t
  | _ :: rest => firstNow rest

/-- The anchor, if it is set. -/
def anchorOf (s : State) : Option TimeUs := if s.anchorValid then some s.anchor else none

/-- The words of a trace's `Tx` events, in order. -/
def writtenWords (tr : List Event) : List SymbolWord :=
  tr.filterMap fun e => match e with
    | .tx w => some w
    | _ => none

/-- The bytes of a trace's `Rx` events, in order. -/
def readBytes (tr : List Event) : List Byte :=
  tr.filterMap fun e => match e with
    | .rx b => some b
    | _ => none

/-- The pairs that may follow `p` in one core step (tables of R22 and R94); a waiting or repeating step
stays at `p`. -/
def Pc.next (p : Pc) : List Pc :=
  match p with
  | ⟨.listening, .fetch⟩ =>
    [⟨.respondingProbe, .build⟩, ⟨.respondingOrigin, .build⟩, ⟨.respondingPoll, .pay0⟩,
      ⟨.recovering, .disable⟩]
  | ⟨.respondingProbe, .build⟩ => [⟨.respondingProbe, .delay⟩]
  | ⟨.respondingProbe, .delay⟩ => [⟨.respondingProbe, .mode⟩]
  | ⟨.respondingOrigin, .build⟩ => [⟨.respondingOrigin, .mode⟩]
  | ⟨.respondingPoll, .pay0⟩ => [⟨.respondingPoll, .pay1⟩]
  | ⟨.respondingPoll, .pay1⟩ => [⟨.respondingPoll, .time⟩]
  | ⟨.respondingPoll, .time⟩ => [⟨.respondingPoll, .lookup⟩]
  | ⟨.respondingPoll, .lookup⟩ => [⟨.respondingPoll, .build⟩]
  | ⟨.respondingPoll, .build⟩ => [⟨.respondingPoll, .mode⟩]
  | ⟨.recovering, .disable⟩ => [⟨.recovering, .settle⟩]
  | ⟨.recovering, .settle⟩ => [⟨.recovering, .init⟩]
  | ⟨.recovering, .init⟩ => [⟨.recovering, .enable⟩]
  | ⟨.recovering, .enable⟩ => [.idle]
  | ⟨f, .mode⟩ => [⟨f, .tx⟩, .idle]
  | ⟨_, .tx⟩ => [.idle]
  | _ => []

/-- Two states that agree in everything a later step can depend on between commands (R41): all but the
per-command registers and the anchor of an unset `anchor_valid`. -/
structure SameLive (s t : State) : Prop where
  pc : s.pc = t.pc
  anchorValid : s.anchorValid = t.anchorValid
  anchor : s.anchorValid = true → s.anchor = t.anchor
  chanCfg : s.chanCfg = t.chanCfg
  chan : s.chan = t.chan
  params : s.params = t.params
  nowIn : s.nowIn = t.nowIn
  nowDraws : s.nowDraws = t.nowDraws
  agenda : s.agenda = t.agenda
  trace : s.trace = t.trace

/-! ## The end of a finite script's run (R185, D17) -/

/-- The channel has shifted out, by `s`, every word that it had accepted and not shifted in `s₀` and every
word that it has accepted since: their bits stand on the line, in order, and none is left in the buffer.
A word that a re-initialisation dropped has not been shifted out (log 35). -/
def ShiftedOut (s₀ s : State) : Prop :=
  s.chan.tx = [] ∧ ∃ ws, writtenWords s.trace = writtenWords s₀.trace ++ ws ∧
    s.chan.line = s₀.chan.line ++ frameBits (s₀.chan.tx ++ ws)

/-- The run of the finite script `script` that began in `s₀` is over in `s`: all its bytes have been
returned by `SC.read8()`, the core is in `(Listening, fetch)` blocked on the next read, and the channel has
shifted out every accepted word and is back in Input mode (R185). -/
structure RunOver (script : List Byte) (s₀ s : State) : Prop where
  allRead : readBytes s.trace = readBytes s₀.trace ++ script
  listening : s.pc = .idle
  blocked : s.chan.rx = []
  shiftedOut : ShiftedOut s₀ s
  backInInput : s.chan.mode = .input

/-! ## Endless executions and fairness (R189, D29) -/

/-- An endless execution at the grain of R9: at each instant one agent moves. -/
def IsExecution (run : Nat → State) (move : Nat → Move) : Prop :=
  ∀ n, perform (move n) (run n) = .next (run (n + 1))

/-- "A delay eventually ends; `TS.now()` and `RFS.fetch` return at once" (D29): the core is never kept
from its next step for ever but by its own waiting. A premise of claims, log 34. -/
def CoreGoesOn (move : Nat → Move) : Prop := ∀ n, ∃ m, n ≤ m ∧ move m = .corePhase

/-- "An enabled channel in Output mode eventually accepts a word" (R189, D29): where the core writes to
such a channel, some later step of the core finds it accepting. A premise of claims, log 34. -/
def ChannelIsFair (run : Nat → State) (move : Nat → Move) : Prop :=
  ∀ n, (run n).pc.phase = .tx → (run n).chan.enabled = true → (run n).chan.mode = .output →
    ∃ m, n ≤ m ∧ move m = .corePhase ∧ accepts (run m).chan = true

/-- The channel is in Output mode whenever the core writes (R172 g, R189): the end marker of an earlier
response is not still on its way. A premise of claims, log 34. -/
def WritesInOutputMode (run : Nat → State) : Prop :=
  ∀ n, (run n).pc.phase = .tx → (run n).chan.mode = .output

end Sys2Proof.Machine
end

