-- ==== Sys2Proof/Certificates/Slice0/Obligations.lean ====
section
/-! DEFINITION. The statements about the model, one definition each; they are proved elsewhere. A
docstring names the rule of the spec a statement formalises and, where it rests on one, the spec's own
decision D<n> or the model's choice (log <n>). -/

open Sys2Proof Sys2Proof.Machine

/-! ## Command frames (30_encoding.md) -/

/-- R70, R71, R73: the bytes the host drives for a frame are read back as that frame, whatever follows. -/
def Obligations.DecodeOfEncodedFrame : Prop :=
  ∀ (i : Instr) (rest : List Byte), i.wellFormed = true → decode (encode i ++ rest) = .frame i rest

/-- R71, R74: what is decoded is a well-formed frame and its bytes are the bytes that were read. -/
def Obligations.EncodeOfDecodedFrame : Prop :=
  ∀ (bs rest : List Byte) (i : Instr), decode bs = .frame i rest →
    i.wellFormed = true ∧ encode i ++ rest = bs

/-- R74, R76: exactly one of the ten rows of the opcode map matches each opcode byte, and it is the row
of the instruction that DISPATCH selects. -/
def Obligations.OneRowMatchesEachOpcode : Prop :=
  ∀ (b : Byte) (following : List Byte),
    (opcodeRows.filter (·.hits b)).map (·.command) = [(selects b following).command]

/-- R73: frames written out bit by bit from the opcode map decode to the commands they stand for. -/
def Obligations.WrittenOutFramesDecode : Prop :=
  decode [0b00000000#8] = .frame .probe [] ∧
  decode [0b01000001#8] = .frame .origin [] ∧
  decode [0b01000000#8, 0b00000011#8, 0b10000000#8] = .frame (.poll 3 128) [] ∧
  decode [0b11111111#8] = .frame (.recover 255) [] ∧
  decode [0b00000001#8] = .frame (.recover 1) [] ∧
  decode [0b01000010#8] = .frame (.recover 66) [] ∧
  decode [0b01000000#8, 0b00000011#8] = .rejected (.payloadMissing 1)

/-! ## The listener (40_dispatcher.md) -/

/-- R91: the fetch step goes by the value of the opcode alone, and the dispatcher writes only `opcode`
and `pc` (R96) beside taking the byte off the channel. -/
def Obligations.DispatchByOpcodeValue : Prop :=
  ∀ (s : State) (b : Byte) (rest : List Byte), s.pc = .idle → s.chan.rx = b :: rest →
    phaseStep s = .next
      { s with
        opcode := b
        pc :=
          if b = 0x00 then ⟨.respondingProbe, .build⟩
          else if b = 0x41 then ⟨.respondingOrigin, .build⟩
          else if b = 0x40 then ⟨.respondingPoll, .pay0⟩
          else ⟨.recovering, .disable⟩
        chan := { s.chan with rx := rest }
        trace := s.trace ++ [.rx b] }

/-- R92, R95: with no move listed and a whole command frame received, a step is the meaning of the
decoded frame, in the state after FETCH (the opcode taken off the channel into `opcode`, `Rx` performed).
That one step is the whole command is the model's choice (log 1). -/
def Obligations.StepRunsTheDecodedFrame : Prop :=
  ∀ (s : State) (b : Byte) (following left : List Byte) (i : Instr),
    s.pc = .idle → s.agenda = [] → s.chan.rx = b :: following → decode (b :: following) = .frame i left →
    step s = exec i
      { s with
        opcode := b
        chan := { s.chan with rx := following }
        trace := s.trace ++ [.rx b] }

/-- R90, R188: a silent host leaves the core where it is, at the opcode read and at both payload reads.
That waiting is a step that changes nothing is the model's choice (log 4). -/
def Obligations.SilentHostLeavesTheStateAsItIs : Prop :=
  ∀ s : State, s.agenda = [] → s.chan.rx = [] →
    s.pc = .idle ∨ s.pc = ⟨.respondingPoll, .pay0⟩ ∨ s.pc = ⟨.respondingPoll, .pay1⟩ →
    step s = .next s

/-! ## The four commands: what each completes with -/

/-- R100, R102, R103: PROBE on an enabled channel that takes words. `Mode(Output)` is decision D10, the
place of the delay D23; `tx_ready` is the model's field (log 17). -/
def Obligations.ProbeAnswersItsTwoWords : Prop :=
  ∀ s : State, s.chan.enabled = true → s.chan.txReady = true →
    exec .probe s = .next
      { s with
        pc := .idle
        resp := memWrite s.resp 0 [0x09, 0x00, 0x03]
        respLen := 3
        words := memWrite s.words 0 [0xAAAAEBAA, 0x0003FAAA]
        wordCount := 2
        txIdx := 2
        chan := { s.chan with mode := .output, tx := s.chan.tx ++ [0xAAAAEBAA, 0x0003FAAA] }
        trace := s.trace ++
          [.wait s.params.probeDelayUs, .mode .output, .tx 0xAAAAEBAA, .tx 0x0003FAAA] }

/-- R104, R105, R103: ORIGIN on an enabled channel that takes words. `Mode(Output)` is decision D10;
`tx_ready` is the model's field (log 17). -/
def Obligations.OriginAnswersItsSixWords : Prop :=
  ∀ s : State, s.chan.enabled = true → s.chan.txReady = true →
    exec .origin s = .next
      { s with
        pc := .idle
        resp := memWrite s.resp 0 [0x00, 0x80, 0x80, 0x80, 0x80, 0x80, 0x00, 0x00, 0x00, 0x00]
        respLen := 10
        words := memWrite s.words 0
          [0xAAABAAAA, 0xAAABAAAB, 0xAAABAAAB, 0xAAAAAAAA, 0xAAAAAAAA, 0x00000003]
        wordCount := 6
        txIdx := 6
        chan :=
          { s.chan with
            mode := .output
            tx := s.chan.tx ++
              [0xAAABAAAA, 0xAAABAAAB, 0xAAABAAAB, 0xAAAAAAAA, 0xAAAAAAAA, 0x00000003] }
        trace := s.trace ++
          [.mode .output, .tx 0xAAABAAAA, .tx 0xAAABAAAB, .tx 0xAAABAAAB, .tx 0xAAAAAAAA,
            .tx 0xAAAAAAAA, .tx 0x00000003] }

/-- R110, R116, R120: the first POLL sets the anchor to its reading and reports the record of frame 0,
whatever the time is. RECORD_BYTES = 10 is decision D5, `Mode(Output)` D10; the reading is the listed
one or a free value (log 10). -/
def Obligations.FirstPollReportsFrameZero : Prop :=
  ∀ (s : State) (pay0 pay1 p q : Byte) (rest : List Byte) (t : TimeUs) (r : Record) (ws : List SymbolWord),
    s.chan.enabled = true → s.chan.txReady = true → s.chan.rx = p :: q :: rest →
    s.anchorValid = false → t = nextReading s → r = rfsFetch s.params.rfs 0 →
    ws = symbolEncode (recordBytesOf r) →
    exec (.poll pay0 pay1) s = .next
      { dropReading s with
        pc := .idle
        resp := memWrite s.resp 0 (recordBytesOf r)
        respLen := 10
        words := memWrite s.words 0 ws
        wordCount := 6
        txIdx := 6
        nowR := t
        frameR := 0
        anchor := t
        anchorValid := true
        chan := { s.chan with rx := rest, mode := .output, tx := s.chan.tx ++ ws }
        trace := s.trace ++ [.rx p, .rx q, .now t, .fetch 0 r, .mode .output] ++ ws.map .tx }

/-- R110, R120, R123: a later POLL keeps the anchor and reports the record of the frame
`⌊(now − anchor) · 2997 / 50,000,000⌋`. Decisions D5, D7, D10; the reading as in log 10. -/
def Obligations.LaterPollReportsTheElapsedFrame : Prop :=
  ∀ (s : State) (pay0 pay1 p q : Byte) (rest : List Byte) (t : TimeUs) (f : FrameIdx) (r : Record)
    (ws : List SymbolWord),
    s.chan.enabled = true → s.chan.txReady = true → s.chan.rx = p :: q :: rest →
    s.anchorValid = true → t = nextReading s → s.anchor ≤ t →
    f.toNat = (t.toNat - s.anchor.toNat) * 2997 / 50000000 → r = rfsFetch s.params.rfs f →
    ws = symbolEncode (recordBytesOf r) →
    exec (.poll pay0 pay1) s = .next
      { dropReading s with
        pc := .idle
        resp := memWrite s.resp 0 (recordBytesOf r)
        respLen := 10
        words := memWrite s.words 0 ws
        wordCount := 6
        txIdx := 6
        nowR := t
        frameR := f
        chan := { s.chan with rx := rest, mode := .output, tx := s.chan.tx ++ ws }
        trace := s.trace ++ [.rx p, .rx q, .now t, .fetch f r, .mode .output] ++ ws.map .tx }

/-- R150: any opcode byte but 0x00, 0x40, 0x41 is a RECOVER of one byte; and from every state RECOVER
disables the channel, waits, re-initialises it in Input mode with `chan_cfg`, enables it and returns, in
that order, sending nothing and keeping the anchor. -/
def Obligations.RecoverReinitialisesTheChannel : Prop :=
  ∀ (s : State) (op : Byte),
    (op ≠ 0x00 → op ≠ 0x40 → op ≠ 0x41 →
      ∀ rest, decode (op :: rest) = .frame (.recover op) rest) ∧
    ∃ t, exec (.recover op) s = .next t ∧
      t.pc = .idle ∧
      t.trace = s.trace ++ [.disable, .wait s.params.recoverSettleUs, .init .input, .enable] ∧
      t.chan.enabled = true ∧ t.chan.mode = .input ∧ t.chan.cfg = s.chanCfg ∧
      t.anchor = s.anchor ∧ t.anchorValid = s.anchorValid

/-- R153, R172 e: what RECOVER does to the channel's buffers. Received bytes go by SC_FLUSH_ON_INIT (D18,
log 19); accepted words by the model's own parameter (log 18). That the ready flag and the line stay as
they were is the model's choice (log 17, log 29): the spec does not give all effects of `SC.init` (N13). -/
def Obligations.RecoverFlushesByTheParameters : Prop :=
  ∀ (s : State) (op : Byte), ∃ t, exec (.recover op) s = .next t ∧
    t.chan.rx = (if s.params.scFlushOnInit = true then [] else s.chan.rx) ∧
    t.chan.tx = (if s.params.txFlushOnInit = true then [] else s.chan.tx) ∧
    t.chan.line = s.chan.line ∧ t.chan.txReady = s.chan.txReady

/-- R72: no value of the two payload bytes changes what a POLL does but for the two `Rx` events that
read them. -/
def Obligations.PollPayloadIsIrrelevant : Prop :=
  ∀ (s : State) (a b p q p' q' : Byte) (rest : List Byte),
    (∃ (t : State) (es : List Event),
      exec (.poll a b) { s with chan := { s.chan with rx := p :: q :: rest } } =
        .next { t with trace := s.trace ++ .rx p :: .rx q :: es } ∧
      exec (.poll a b) { s with chan := { s.chan with rx := p' :: q' :: rest } } =
        .next { t with trace := s.trace ++ .rx p' :: .rx q' :: es }) ∨
    (∃ r, exec (.poll a b) { s with chan := { s.chan with rx := p :: q :: rest } } = .refused r ∧
      exec (.poll a b) { s with chan := { s.chan with rx := p' :: q' :: rest } } = .refused r)

/-- R111, R116, R188: a POLL whose payload has not come waits at the payload read that misses its byte;
no time is sampled and the anchor is not set. That `exec` answers the state the core waits in is the
model's choice (log 4). -/
def Obligations.PollWaitsForItsPayload : Prop :=
  ∀ (s : State) (a b p : Byte),
    (s.chan.rx = [] → exec (.poll a b) s = .next { s with pc := ⟨.respondingPoll, .pay0⟩ }) ∧
    (s.chan.rx = [p] → exec (.poll a b) s = .next
      { s with
        pc := ⟨.respondingPoll, .pay1⟩
        chan := { s.chan with rx := [] }
        trace := s.trace ++ [.rx p] })

/-- R128 (decision D22): a reading earlier than the anchor is refused, and no frame is computed. -/
def Obligations.ReadingBeforeTheAnchorIsRefused : Prop :=
  ∀ (s : State) (a b p q : Byte) (rest : List Byte), s.chan.rx = p :: q :: rest →
    s.anchorValid = true → nextReading s < s.anchor →
    exec (.poll a b) s = .refused .timeBeforeAnchor

/-- R189: while the channel accepts no word, a response waits in `tx` with its words built and nothing
written, whichever command it answers; once the channel is ready, the next step ends the command as if it
had never waited. `tx_ready` is the model's field (log 17), waiting as in log 4. -/
def Obligations.ResponseResumesWhereItWaited : Prop :=
  ∀ (i : Instr) (f : Fsm) (s : State),
    s.chan.enabled = true → s.chan.txReady = false → s.agenda = [] →
    (i = .probe ∧ f = .respondingProbe ∨ i = .origin ∧ f = .respondingOrigin ∨
      f = .respondingPoll ∧ ∃ a b p q rest, i = .poll a b ∧ s.chan.rx = p :: q :: rest ∧
        (s.anchorValid = true → s.anchor ≤ nextReading s)) →
    ∃ w, exec i s = .next w ∧ w.pc = ⟨f, .tx⟩ ∧ w.txIdx = 0 ∧ w.chan.tx = s.chan.tx ∧
      step w = .next w ∧
      step (txReadyIs true w) = exec i (txReadyIs true s)

/-- R26, R103, R189: wherever in a response the channel stops accepting, the core waits there, and once the
channel is ready one step writes the words from `tx_idx` on, in order, and returns to Listening. `tx_ready`
is the model's field (log 17), waiting as in log 4. -/
def Obligations.ResponseResumesAtTheNextWord : Prop :=
  ∀ (f : Fsm) (ws : List SymbolWord) (s : State),
    f = .respondingProbe ∨ f = .respondingOrigin ∨ f = .respondingPoll →
    s.pc = ⟨f, .tx⟩ → s.agenda = [] → s.chan.enabled = true → s.chan.mode = .output →
    s.wordCount ≤ Config.maxWords → s.txIdx < s.wordCount → ws.length = s.wordCount - s.txIdx →
    (∀ k < ws.length, Memory.read s.words (s.txIdx + k) = ws[k]?) →
    step (txReadyIs false s) = .next (txReadyIs false s) ∧
    step (txReadyIs true s) = .next
      { s with
        pc := .idle
        txIdx := s.wordCount
        chan := { s.chan with txReady := true, tx := s.chan.tx ++ ws }
        trace := s.trace ++ ws.map .tx }

/-- R92, R188: a POLL that waited for its first or second payload byte goes on, when the bytes have come,
as one that never waited. Waiting as in log 4. -/
def Obligations.PollResumesWhereItWaited : Prop :=
  ∀ (s : State) (a b p q : Byte) (rest : List Byte), s.agenda = [] →
    step
      { s with
        pc := ⟨.respondingPoll, .pay0⟩
        chan := { s.chan with rx := p :: q :: rest } } =
      exec (.poll a b) { s with chan := { s.chan with rx := p :: q :: rest } } ∧
    step
      { s with
        pc := ⟨.respondingPoll, .pay1⟩
        chan := { s.chan with rx := q :: rest }
        trace := s.trace ++ [.rx p] } =
      exec (.poll a b) { s with chan := { s.chan with rx := p :: q :: rest } }

/-- R66, R189: in a `tx` phase with a word to write that the channel does not accept, a step changes
nothing. Waiting as in log 4, `tx_ready` as in log 17. -/
def Obligations.AnUnacceptedWordIsWaitedFor : Prop :=
  ∀ s : State, s.agenda = [] → s.pc.phase = .tx → s.txIdx < s.wordCount → accepts s.chan = false →
    step s = .next s

/-! ## The four commands: what each leaves alone -/

/-- R96, R100, R104, R106: PROBE and ORIGIN, completed or waiting, write only `pc`, RESP, WORDS, their
counts, `tx_idx` and the channel's mode and transmit side; RESP beyond the payload and WORDS beyond the
frame are as before. -/
def Obligations.ProbeAndOriginFrame : Prop :=
  ∀ (i : Instr) (n : Nat) (s t : State),
    (i = .probe ∧ n = 3) ∨ (i = .origin ∧ n = 10) → exec i s = .next t →
    t.opcode = s.opcode ∧ t.nowR = s.nowR ∧ t.frameR = s.frameR ∧ t.anchor = s.anchor ∧
    t.anchorValid = s.anchorValid ∧ t.chanCfg = s.chanCfg ∧ t.params = s.params ∧
    t.nowIn = s.nowIn ∧ t.nowDraws = s.nowDraws ∧ t.agenda = s.agenda ∧
    t.chan.enabled = s.chan.enabled ∧ t.chan.cfg = s.chan.cfg ∧ t.chan.rx = s.chan.rx ∧
    t.chan.txReady = s.chan.txReady ∧ t.chan.line = s.chan.line ∧
    (∀ a, n ≤ a → Memory.read t.resp a = Memory.read s.resp a) ∧
    (∀ a, n / 2 + 1 ≤ a → Memory.read t.words a = Memory.read s.words a)

/-- R110, R116, R121: POLL, completed or waiting, leaves `opcode`, `chan_cfg`, the parameters and the
channel's enable, configuration and line alone, and a set anchor as it is; RESP beyond the record and
WORDS beyond the frame are as before. -/
def Obligations.PollFrame : Prop :=
  ∀ (a b : Byte) (s t : State), exec (.poll a b) s = .next t →
    t.opcode = s.opcode ∧ t.chanCfg = s.chanCfg ∧ t.params = s.params ∧ t.agenda = s.agenda ∧
    t.chan.enabled = s.chan.enabled ∧ t.chan.cfg = s.chan.cfg ∧ t.chan.txReady = s.chan.txReady ∧
    t.chan.line = s.chan.line ∧
    (s.anchorValid = true → t.anchorValid = true ∧ t.anchor = s.anchor) ∧
    (∀ k, Config.recordBytes ≤ k → Memory.read t.resp k = Memory.read s.resp k) ∧
    (∀ k, Config.recordBytes / 2 + 1 ≤ k → Memory.read t.words k = Memory.read s.words k)

/-- R150, R152: RECOVER writes only `pc` and the channel: no register, no buffer element, no reading and
no anchor changes. -/
def Obligations.RecoverFrame : Prop :=
  ∀ (op : Byte) (s t : State), exec (.recover op) s = .next t →
    t = { s with pc := t.pc, chan := t.chan, trace := t.trace } ∧
    (∀ a, Memory.read t.resp a = Memory.read s.resp a) ∧
    (∀ a, Memory.read t.words a = Memory.read s.words a)

/-! ## The Frame-Time Synchronizer (43_frame_sync.md) -/

/-- R123 (decision D7): `frame_of(d)` is the floor of `d / (1,000,000 / 59.94)` over the rationals. -/
def Obligations.FrameOfIsTheExactFloor : Prop :=
  ∀ d : TimeUs, ((frameOf d).toNat : ℤ) = ⌊(d.toNat : ℚ) / (1000000 / (5994 / 100))⌋

/-- R126: the frame index does not decrease with the elapsed time, and neither does the frame of a later
Poll of the same anchor; it may repeat and it may skip. -/
def Obligations.FrameOfIsMonotone : Prop :=
  (∀ d₁ d₂ : TimeUs, d₁ ≤ d₂ → frameOf d₁ ≤ frameOf d₂) ∧
  (∀ s₁ s₂ t₁ t₂ : State, s₁.anchorValid = true → s₂.anchorValid = true → s₁.anchor = s₂.anchor →
    nextReading s₁ ≤ nextReading s₂ → pollTime s₁ = .next t₁ → pollTime s₂ = .next t₂ →
    t₁.frameR ≤ t₂.frameR) ∧
  frameOf 0 = frameOf 1 ∧ frameOf 33367 = frameOf 0 + 2

/-- R125 (decisions D6, D7): no step of the computation wraps, and the quotient is less than 2^50. -/
def Obligations.FrameOfNeverWraps : Prop :=
  ∀ d : TimeUs, (frameOf d).toNat = d.toNat * 2997 / 50000000 ∧ (frameOf d).toNat < 2 ^ 50

/-- R130: frame `n` is reported exactly from `⌈n · 50,000,000 / 2997⌉` up to the start of the next. -/
def Obligations.FrameBoundaries : Prop :=
  ∀ (d : TimeUs) (n : Nat), (frameOf d).toNat = n ↔
    ⌈(n : ℚ) * 50000000 / 2997⌉ ≤ (d.toNat : ℤ) ∧
      (d.toNat : ℤ) < ⌈((n : ℚ) + 1) * 50000000 / 2997⌉

/-- R120: the first call sets the anchor and reports frame 0; a later one keeps it and reports the floor
of the elapsed time over the microseconds of a frame. -/
def Obligations.SyncSetsTheAnchorOnce : Prop :=
  ∀ s : State,
    (s.anchorValid = false →
      sync s = .next { s with anchor := s.nowR, anchorValid := true, frameR := 0 }) ∧
    (s.anchorValid = true → s.anchor ≤ s.nowR →
      ∃ f : FrameIdx, sync s = .next { s with frameR := f } ∧
        (f.toNat : ℤ) = ⌊((s.nowR.toNat : ℚ) - s.anchor.toNat) / (1000000 / (5994 / 100))⌋)

/-- R122: at the anchor the second branch reports frame 0 as well. -/
def Obligations.SyncAtTheAnchorReportsZero : Prop :=
  ∀ s : State, s.anchorValid = true → s.nowR = s.anchor → sync s = .next { s with frameR := 0 }

/-- R127: the frame a Poll reports is a function of the anchor and of its own reading. -/
def Obligations.PollFrameDependsOnAnchorAndReadingAlone : Prop :=
  ∀ s₁ s₂ t₁ t₂ : State, s₁.anchorValid = true → s₂.anchorValid = true → s₁.anchor = s₂.anchor →
    nextReading s₁ = nextReading s₂ → pollTime s₁ = .next t₁ → pollTime s₂ = .next t₂ →
    t₁.frameR = t₂.frameR

/-! ## The Replay Frame Source (42_poll.md) -/

/-- R118 (decision D12): with a replay loaded behind the spec's default wrapper, the recorded frame below
N_FRAMES and the neutral record, whose ten bytes are ORIGIN_PAYLOAD, from N_FRAMES on. -/
def Obligations.ReplayIsNeutralPastItsEnd : Prop :=
  ∀ (p : Params) (recorded : List Record) (idx : FrameIdx),
    (loadReplay recorded p).nFrames = recorded.length ∧
    (∀ r, recorded[idx.toNat]? = some r →
      recordBytesOf (rfsFetch (loadReplay recorded p).rfs idx) = r.toList) ∧
    ((loadReplay recorded p).nFrames ≤ idx.toNat →
      recordBytesOf (rfsFetch (loadReplay recorded p).rfs idx) =
        [0x00, 0x80, 0x80, 0x80, 0x80, 0x80, 0x00, 0x00, 0x00, 0x00])

/-- R113: the lookup takes the record into `resp` unchanged and in order, and cannot fail. -/
def Obligations.PollTakesTheRecordUnchanged : Prop :=
  ∀ s : State, ∃ t, pollLookup s = .next t ∧ t.respLen = Config.recordBytes ∧
    (∀ k : Fin Config.recordBytes,
      Memory.read t.resp k.val = some ((rfsFetch s.params.rfs s.frameR).get k)) ∧
    t.trace = s.trace ++ [.fetch s.frameR (rfsFetch s.params.rfs s.frameR)]

/-! ## The Symbol Encoder (44_symbol_encoder.md) -/

/-- R136. -/
def Obligations.EncodeWordCount : Prop :=
  ∀ s : List Byte, (symbolEncode s).length = if s.length = 0 then 0 else s.length / 2 + 1

/-- R137: for byte `i` and source bit `j` (0 the most significant) the enable bit is 1 and the data bit is
the bit of the byte that `0x80 >> j` selects. -/
def Obligations.EncodeDataAndEnableBits : Prop :=
  ∀ (s : List Byte) (i j : Nat) (b : Byte), s[i]? = some b → j < 8 →
    ∃ w, (symbolEncode s)[i / 2]? = some w ∧
      w.getLsbD (2 * (8 * (i % 2) + j) + 1) = true ∧
      w.getLsbD (2 * (8 * (i % 2) + j)) = (b &&& (0x80#8 >>> j) != 0)

/-- R138: the end marker, both bits 1, in global pair slot `8 · len`. -/
def Obligations.EncodeEndMarker : Prop :=
  ∀ s : List Byte, s ≠ [] →
    ∃ w, (symbolEncode s)[s.length / 2]? = some w ∧
      w.getLsbD (16 * (s.length % 2) + 1) = true ∧ w.getLsbD (16 * (s.length % 2)) = true

/-- R139 (decision D9): every bit of the last word above the end marker is 0. -/
def Obligations.EncodePaddingIsZero : Prop :=
  ∀ (s : List Byte) (p : Nat), s ≠ [] → 16 * (s.length % 2) + 1 < p →
    ∃ w, (symbolEncode s)[s.length / 2]? = some w ∧ w.getLsbD p = false

/-- R140: the bit placement and the half-word closed form are the same function. -/
def Obligations.EncodeIsTheHalfWordForm : Prop :=
  ∀ s : List Byte, symbolEncode s = halfWordEncode s

/-- R141, R53: read in order and from bit 0 upward, the words give each byte's data bits most significant
first, each followed by its enable bit, then the end marker, then zeros: 14 for odd length, 30 for even. -/
def Obligations.EncodeStreamForm : Prop :=
  ∀ s : List Byte, s ≠ [] →
    frameBits (symbolEncode s) = s.flatMap byteStream ++ [true, true] ++
      List.replicate (if s.length % 2 = 1 then 14 else 30) false

/-- R142: extracting the non-enable bits in order gives the bytes back, for every length; the enable bits
are 1; no two byte sequences give the same words; and the last word tells an even length, 0x00000003, from
an odd one, whose bits 3 and 17 are 1. -/
def Obligations.DecodingTheWordsGivesTheBytes : Prop :=
  ∀ s : List Byte,
    symbolDecode s.length (symbolEncode s) = s ∧
    (∀ i < s.length, ∀ j < 8,
      ∃ w, (symbolEncode s)[i / 2]? = some w ∧ w.getLsbD (2 * (8 * (i % 2) + j) + 1) = true) ∧
    (∀ t : List Byte, symbolEncode s = symbolEncode t → s = t) ∧
    (s ≠ [] → ∃ w, (symbolEncode s).getLast? = some w ∧
      (s.length % 2 = 0 → w = 0x00000003) ∧
      (s.length % 2 = 1 → w.getLsbD 3 = true ∧ w.getLsbD 17 = true))

/-- R81, R139, R145: exactly the last word of a frame has an empty last pair slot, by which the model's
channel knows the end of a frame (log 15), and no pair slot of any word holds a data bit without its
enable bit. -/
def Obligations.PairSlotsAndFrameEnd : Prop :=
  ∀ (s : List Byte) (k : Nat) (w : SymbolWord), (symbolEncode s)[k]? = some w →
    (endsFrame w = true ↔ k + 1 = (symbolEncode s).length) ∧
    ∀ slot < 16, w.getLsbD (2 * slot + 1) = false → w.getLsbD (2 * slot) = false

/-! ## The Signal Channel (60_exceptions.md) -/

/-- R58, R59: a read takes the oldest byte away; a write appends its word and writing twice sends twice.
That a channel that accepts one word accepts the next is the model's choice (log 17): the spec gives the
buffer no capacity (N9). -/
def Obligations.ReadsConsumeAndWritesAppend : Prop :=
  ∀ (s : State) (w : SymbolWord),
    (∀ b rest, s.chan.rx = b :: rest → ∃ t, scRead8 s = some (b, t) ∧ t.chan.rx = rest) ∧
    (accepts s.chan = true → ∃ t u, scWrite32 w s = some t ∧ scWrite32 w t = some u ∧
      u.chan.tx = s.chan.tx ++ [w, w] ∧ u.trace = s.trace ++ [.tx w, .tx w])

/-- R64, R68, R172 c: the channel shifts the oldest word out from bit 0 to bit 31 and is back in Input
mode after the last word of a frame. How it knows that word is the model's inference (log 15). -/
def Obligations.ChannelShiftsFromBitZero : Prop :=
  ∀ (s : State) (w : SymbolWord) (rest : List SymbolWord),
    s.chan.enabled = true → s.chan.mode = .output → s.chan.tx = w :: rest →
    (channelShifts s).chan.tx = rest ∧
    (∀ k < 32, (channelShifts s).chan.line[s.chan.line.length + k]? = some (w.getLsbD k)) ∧
    (channelShifts s).chan.line.length = s.chan.line.length + 32 ∧
    ((channelShifts s).chan.mode = .input ↔ w.getLsbD 31 = false)

/-- R172 b, d: a byte the host drives reaches a reading core once and in arrival order when the channel is
enabled and in Input mode, and never when it is disabled. What happens otherwise is open (log 16). -/
def Obligations.HostBytesReachAReadingCore : Prop :=
  ∀ (s : State) (b : Byte) (kept : Bool),
    (s.chan.enabled = true → s.chan.mode = .input → reading s = true →
      hostDrives b kept s = { s with chan := { s.chan with rx := s.chan.rx ++ [b] } }) ∧
    (s.chan.enabled = false → hostDrives b kept s = s)

/-! ## The exception (60_exceptions.md) -/

/-- R163: taking UnknownCommand sets the pc and does nothing else. -/
def Obligations.TrapEntrySetsThePcOnly : Prop :=
  ∀ (op : Byte) (s : State),
    takeException (.unknownCommand op) s = { s with pc := ⟨.recovering, .disable⟩ }

/-- R164: the handler's last step enables the channel and returns to `(Listening, fetch)`, restoring
nothing. -/
def Obligations.TrapReturnGoesToListening : Prop :=
  ∀ s : State, s.pc = ⟨.recovering, .enable⟩ →
    phaseStep s = .next
      { s with
        pc := ⟨.listening, .fetch⟩
        chan := { s.chan with enabled := true }
        trace := s.trace ++ [.enable] }

/-- R155, R161: no step of the core enters `Recovering` but the dispatch of a received byte that is none
of the three recognised opcodes. -/
def Obligations.OnlyAnUnknownOpcodeEntersRecovering : Prop :=
  ∀ s t : State, phaseStep s = .next t → t.pc.fsm = .recovering → s.pc.fsm ≠ .recovering →
    s.pc = .idle ∧ ∃ b rest, s.chan.rx = b :: rest ∧ b ≠ 0x00 ∧ b ≠ 0x41 ∧ b ≠ 0x40

/-! ## The whole machine -/

/-- R21, R22, R94: a core step that does not wait moves the pc to a pair that the tables allow; only `tx`
repeats, once a word. A wait changes nothing (log 4). The phases are decision D3. -/
def Obligations.PhasesFollowTheTable : Prop :=
  ∀ s t : State, phaseStep s = .next t →
    (waits s = true ∧ t = s) ∨
    (waits s = false ∧ s.pc.phase = .tx ∧ t.pc = s.pc ∧ t.txIdx = s.txIdx + 1) ∨
    (waits s = false ∧ t.pc ≠ s.pc ∧ t.pc ∈ s.pc.next)

/-- R65: the core takes bytes off the channel in the three reading phases only and writes words in a
`tx` phase only, never both in one phase. -/
def Obligations.HalfDuplexPhases : Prop :=
  ∀ s t : State, phaseStep s = .next t →
    ∃ es, t.trace = s.trace ++ es ∧
      (readBytes es ≠ [] → reading s = true ∧ writtenWords es = []) ∧
      (writtenWords es ≠ [] → s.pc.phase = .tx ∧ readBytes es = [])

/-- R39, R181: after power-up, whatever the parameters and the channel configuration, the core is at the
opcode read with no anchor set and the channel enabled in Input mode; and the invariant holds. Bring-up is
decision D16; the values of the registers R39 leaves open are the model's (log 5, log 6) and no part of
this statement. -/
def Obligations.PowerUpMeetsTheInvariant : Prop :=
  (∀ (p : Params) (c : ChanCfg),
    (State.powerUp p c).pc = .idle ∧ (State.powerUp p c).anchorValid = false ∧
    (State.powerUp p c).chan.enabled = true ∧ (State.powerUp p c).chan.mode = .input ∧
    (State.powerUp p c).chanCfg = c ∧ (State.powerUp p c).params = p ∧ StateInv (State.powerUp p c)) ∧
  StateInv State.reset

/-- Every step, of the core or of the agents around it, keeps the invariant: the pc stays a legal pair
(R22), the buffers stay canonical and inside R24 and R25, what a phase reads is written before (R40), and
the channel is enabled except inside `Recovering` (R172 g). -/
def Obligations.EveryStepKeepsTheInvariant : Prop :=
  ∀ s t : State, StateInv s → step s = .next t → StateInv t

/-- R40, R161, R196: from a state that meets the invariant no step faults, and the only refusal is a time
reading earlier than the anchor (R128). -/
def Obligations.NoStepFaults : Prop :=
  ∀ s : State, StateInv s → Safe s ∨
    (step s = .refused .timeBeforeAnchor ∧ s.anchorValid = true ∧ nextReading s < s.anchor)

/-- R31, R121: once set, the anchor and its flag keep their values in every step. -/
def Obligations.TheAnchorIsNeverReset : Prop :=
  ∀ s t : State, s.anchorValid = true → step s = .next t → t.anchorValid = true ∧ t.anchor = s.anchor

/-- R29, R30: the anchor is set exactly when the time has been read, and holds the first reading; every
step keeps this. -/
def Obligations.TheAnchorIsTheFirstReading : Prop :=
  ∀ s t : State, anchorOf s = firstNow s.trace → step s = .next t → anchorOf t = firstNow t.trace

/-- R7, R32, R38: no step changes the parameters or `chan_cfg`, and no step takes back an event. -/
def Obligations.ParametersAndPastEventsAreKept : Prop :=
  ∀ s t : State, step s = .next t →
    t.params = s.params ∧ t.chanCfg = s.chanCfg ∧ ∃ es, t.trace = s.trace ++ es

/-- R59, R64: where re-initialisation drops no accepted word (the model's own parameter, log 18), the bits
on the line followed by those still in the transmit buffer are the bits of the written words in the order
the core wrote them; every step keeps this. -/
def Obligations.WordsLeaveInTheOrderWritten : Prop :=
  ∀ s t : State, s.params.txFlushOnInit = false →
    s.chan.line ++ frameBits s.chan.tx = frameBits (writtenWords s.trace) → step s = .next t →
    t.chan.line ++ frameBits t.chan.tx = frameBits (writtenWords t.trace)

/-- R9, R92: with no move listed, a step is a finite run of core steps at the grain of R9, at least one
where the core need not wait; and under the invariant the run ends where the command does, at the fetch
step or where the core has to wait. That the step is the whole command is the model's choice (log 1). -/
def Obligations.StepIsARunOfCoreSteps : Prop :=
  ∀ s : State, s.agenda = [] →
    (∃ n, (waits s = false → 0 < n) ∧ phaseRun n s = step s) ∧
    (StateInv s → ∀ t, step s = .next t → t.pc = .idle ∨ waits t = true)

/-- R41: between commands only the anchor matters. Two states that agree in it and in the surroundings
(channel, readings, parameters) step alike, whatever the per-command registers hold. -/
def Obligations.DeadRegistersDoNotMatter : Prop :=
  ∀ s₁ s₂ t₁ : State, SameLive s₁ s₂ → s₁.pc = .idle → s₁.agenda = [] → step s₁ = .next t₁ →
    ∃ t₂, step s₂ = .next t₂ ∧ SameLive t₁ t₂

/-- R152: a recovery between two Polls changes nothing about the second: if the channel keeps its bytes, a
POLL after RECOVER performs the same events as a POLL without it. -/
def Obligations.RecoveryIsInvisibleToThePoll : Prop :=
  ∀ (s u v : State) (op a b : Byte), s.params.scFlushOnInit = false → s.chan.enabled = true →
    exec (.recover op) s = .next u → exec (.poll a b) s = .next v →
    ∃ w es, exec (.poll a b) u = .next w ∧ v.trace = s.trace ++ es ∧ w.trace = u.trace ++ es ∧
      w.anchor = v.anchor ∧ w.anchorValid = v.anchorValid ∧ w.frameR = v.frameR

/-- R185 (decision D17): the run of a script of one whole frame is over when the core has handled it and
the channel has shifted its words out, and an over run stays over while nothing moves; a run in which a word
was accepted and its bits are not on the line is not over; and the run of a script that ends inside a POLL
is never over, the core stays in `pay0` or `pay1`. Waiting as in log 4, `tx_ready` as in log 17, the
channel's return to Input as in log 15, the line as in log 29. -/
def Obligations.TheRunOfAScriptEnds : Prop :=
  (∀ (i : Instr) (s : State), i.wellFormed = true → s.pc = .idle → s.agenda = [] →
    s.chan.rx = encode i → s.chan.tx = [] → s.chan.mode = .input → s.chan.enabled = true →
    s.chan.txReady = true → (s.anchorValid = true → s.anchor ≤ nextReading s) →
    ∃ t, step s = .next t ∧ RunOver (encode i) s (channelShifts^[t.chan.tx.length] t)) ∧
  (∀ (script : List Byte) (s₀ s : State), RunOver script s₀ s → s.agenda = [] → step s = .next s) ∧
  (∀ (script : List Byte) (s₀ s : State) (w : SymbolWord) (ws : List SymbolWord),
    writtenWords s.trace = writtenWords s₀.trace ++ w :: ws → s.chan.line = s₀.chan.line →
    ¬ RunOver script s₀ s) ∧
  (∀ s : State, s.pc = .idle → s.agenda = [] →
    s.chan.rx = [0x40] ∨ (∃ p, s.chan.rx = [0x40, p]) →
    ∃ t, step s = .next t ∧ step t = .next t ∧
      (t.pc = ⟨.respondingPoll, .pay0⟩ ∨ t.pc = ⟨.respondingPoll, .pay1⟩) ∧
      ∀ script, ¬ RunOver script s t)

/-- R189, R63 (decision D29): under the fairness premises, which are assumptions on the channel and on the
delay unit and no facts of the spec (log 34), the core always comes back to a phase that reads. -/
def Obligations.TheCoreReadsAgain : Prop :=
  ∀ (run : Nat → State) (move : Nat → Move), IsExecution run move → StateInv (run 0) →
    CoreGoesOn move → ChannelIsFair run move → WritesInOutputMode run →
    ∀ n, ∃ m, n ≤ m ∧ reading (run m) = true
end

