-- ==== Sys2Proof/Laws/Memory.lean ====
section
/-! SUPPORT. The stores RESP and WORDS: read after write, and the canonical form is kept. -/

namespace Sys2Proof.Machine

variable {w : Nat}

@[simp] theorem Memory.read_nil (a : Nat) : Memory.read ([] : Memory w) a = none := rfl

theorem Memory.read_cons (b : Nat) (v : BitVec w) (m : Memory w) (a : Nat) :
    Memory.read ((b, v) :: m) a = if a = b then some v else Memory.read m a := rfl

@[simp] theorem Memory.read_write_same (m : Memory w) (a : Nat) (v : BitVec w) :
    Memory.read (Memory.write m a v) a = some v := by
  induction m with
  | nil => simp [Memory.write, Memory.read_cons]
  | cons c m ih =>
    obtain ⟨b, u⟩ := c
    unfold Memory.write
    split
    · simp [Memory.read_cons]
    · split
      · simp [Memory.read_cons]
      · simp [Memory.read_cons, *]

theorem Memory.read_write_other (m : Memory w) {a b : Nat} (v : BitVec w) (h : b ≠ a) :
    Memory.read (Memory.write m a v) b = Memory.read m b := by
  induction m with
  | nil => simp [Memory.write, Memory.read_cons, h]
  | cons c m ih =>
    obtain ⟨k, u⟩ := c
    unfold Memory.write
    split
    · simp [Memory.read_cons, h]
    · split
      · subst_vars; simp [Memory.read_cons, h]
      · simp [Memory.read_cons, ih]

/-- Every cell after a write is the written one or was there before. -/
theorem Memory.mem_write {m : Memory w} {a : Nat} {v : BitVec w} {c : Nat × BitVec w}
    (h : c ∈ Memory.write m a v) : c = (a, v) ∨ c ∈ m := by
  induction m with
  | nil => simpa [Memory.write] using h
  | cons d m ih =>
    obtain ⟨k, u⟩ := d
    unfold Memory.write at h
    split at h
    · simpa using h
    · split at h
      · rcases List.mem_cons.1 h with h | h
        · exact .inl h
        · exact .inr (List.mem_cons_of_mem _ h)
      · rcases List.mem_cons.1 h with h | h
        · exact .inr (by simp [h])
        · exact (ih h).imp id (List.mem_cons_of_mem _)

/-- The canonical form of a store with a first cell, said of the first index. -/
theorem Memory.wf_cons {a : Nat} {v : BitVec w} {m : Memory w} :
    Memory.wf ((a, v) :: m) = true ↔ (∀ c ∈ m.head?, a < c.1) ∧ Memory.wf m = true := by
  cases m with
  | nil => simp [Memory.wf]
  | cons d m => obtain ⟨b, u⟩ := d; simp [Memory.wf]

theorem Memory.head_write {m : Memory w} {a : Nat} {v : BitVec w} {c : Nat × BitVec w}
    (h : c ∈ (Memory.write m a v).head?) : c = (a, v) ∨ c ∈ m.head? := by
  cases m with
  | nil => simpa [Memory.write, eq_comm] using h
  | cons d m =>
    obtain ⟨k, u⟩ := d
    unfold Memory.write at h
    split at h
    · left; simpa [eq_comm] using h
    · split at h
      · left; simpa [eq_comm] using h
      · right; simpa using h

/-- A write keeps the canonical form. -/
theorem Memory.wf_write (m : Memory w) (a : Nat) (v : BitVec w) (h : Memory.wf m = true) :
    Memory.wf (Memory.write m a v) = true := by
  induction m with
  | nil => rfl
  | cons d m ih =>
    obtain ⟨k, u⟩ := d
    have hm := Memory.wf_cons.1 h
    unfold Memory.write
    split
    · exact Memory.wf_cons.2 ⟨by simpa, h⟩
    · split
      · subst_vars; exact Memory.wf_cons.2 hm
      · refine Memory.wf_cons.2 ⟨fun c hc => ?_, ih hm.2⟩
        rcases Memory.head_write hc with rfl | hc
        · simp; omega
        · exact hm.1 c hc

/-- What `MemWrite` leaves at each index: the written element inside the range, the old one outside. -/
theorem read_memWrite (m : Memory w) (a : Nat) (vs : List (BitVec w)) (b : Nat) :
    Memory.read (memWrite m a vs) b =
      if a ≤ b ∧ b < a + vs.length then vs[b - a]? else Memory.read m b := by
  induction vs generalizing m a with
  | nil => simp [memWrite]
  | cons v vs ih =>
    rw [memWrite, ih]
    by_cases hb : b = a
    · subst hb
      rw [if_neg (by omega), if_pos (by simp), Nat.sub_self]
      simp
    · rw [Memory.read_write_other _ _ hb]
      by_cases h : a + 1 ≤ b ∧ b < a + 1 + vs.length
      · rw [if_pos h, if_pos (by simp; omega), show b - a = (b - (a + 1)) + 1 by omega]
        simp
      · rw [if_neg h, if_neg (by simp; omega)]

theorem memWrite_wf (m : Memory w) (a : Nat) (vs : List (BitVec w)) (h : Memory.wf m = true) :
    Memory.wf (memWrite m a vs) = true := by
  induction vs generalizing m a with
  | nil => exact h
  | cons v vs ih => exact ih _ _ (Memory.wf_write m a v h)

/-- `MemWrite` of elements inside a range keeps every cell inside it. -/
theorem memWrite_inside {n : Nat} (m : Memory w) (a : Nat) (vs : List (BitVec w))
    (h : ∀ c ∈ m, c.1 < n) (hn : a + vs.length ≤ n) : ∀ c ∈ memWrite m a vs, c.1 < n := by
  induction vs generalizing m a with
  | nil => exact h
  | cons v vs ih =>
    refine ih _ _ (fun c hc => ?_) (by simp at hn; omega)
    rcases Memory.mem_write hc with rfl | hc
    · simp at hn ⊢; omega
    · exact h c hc

/-- `MemRead` answers exactly the listed elements. -/
theorem memRead_eq_some {m : Memory w} {a n : Nat} {vs : List (BitVec w)} :
    memRead m a n = some vs ↔ vs.length = n ∧ ∀ k < n, Memory.read m (a + k) = vs[k]? := by
  induction n generalizing a vs with
  | zero =>
    simp only [memRead, Option.some.injEq]
    constructor
    · rintro rfl; simp
    · intro h; exact (List.length_eq_zero_iff.1 h.1).symm
  | succ n ih =>
    cases vs with
    | nil =>
      simp only [memRead]
      constructor
      · intro h; split at h <;> simp at h
      · intro h; simp at h
    | cons v vs =>
      have key : (∀ k < n + 1, Memory.read m (a + k) = (v :: vs)[k]?) ↔
          Memory.read m a = some v ∧ ∀ k < n, Memory.read m (a + 1 + k) = vs[k]? := by
        constructor
        · intro h
          refine ⟨by simpa using h 0 (by omega), fun k hk => ?_⟩
          have := h (k + 1) (by omega)
          rw [show a + (k + 1) = a + 1 + k by omega] at this
          simpa using this
        · rintro ⟨h0, h⟩ k hk
          cases k with
          | zero => simpa using h0
          | succ k =>
            rw [show a + (k + 1) = a + 1 + k by omega, h k (by omega)]; simp
      rw [key]
      simp only [memRead]
      constructor
      · intro h
        split at h
        · rename_i v' vs' hv hvs
          simp only [Option.some.injEq, List.cons.injEq] at h
          obtain ⟨rfl, rfl⟩ := h
          have := ih.1 hvs
          exact ⟨by simp [this.1], hv, this.2⟩
        · simp at h
      · rintro ⟨hl, hv, h⟩
        rw [hv, ih.2 ⟨by simpa using hl, h⟩]

/-- What was just written is read back. -/
theorem memRead_memWrite (m : Memory w) (a : Nat) (vs : List (BitVec w)) :
    memRead (memWrite m a vs) a vs.length = some vs := by
  rw [memRead_eq_some]
  refine ⟨rfl, fun k hk => ?_⟩
  rw [read_memWrite, if_pos (by omega)]
  simp

/-- Elements that are all written can be read. -/
theorem memRead_isSome {m : Memory w} {a n : Nat} (h : ∀ k < n, (Memory.read m (a + k)).isSome = true) :
    ∃ vs, memRead m a n = some vs := by
  induction n generalizing a with
  | zero => exact ⟨[], rfl⟩
  | succ n ih =>
    obtain ⟨v, hv⟩ := Option.isSome_iff_exists.1 (h 0 (by omega))
    obtain ⟨vs, hvs⟩ := ih (a := a + 1) (fun k hk => by
      have := h (k + 1) (by omega)
      rwa [show a + (k + 1) = a + 1 + k by omega] at this)
    exact ⟨v :: vs, by simp only [memRead]; rw [show Memory.read m a = some v by simpa using hv, hvs]⟩

end Sys2Proof.Machine
end

