-- ==== Sys2Proof/Laws/State.lean ====
section
/-! SUPPORT. For each update of the state, what it leaves in each field. -/

namespace Sys2Proof.Machine

variable (s : State)

@[simp] theorem emit_pc (e : Event) : (emit e s).pc = s.pc := rfl
@[simp] theorem emit_opcode (e : Event) : (emit e s).opcode = s.opcode := rfl
@[simp] theorem emit_resp (e : Event) : (emit e s).resp = s.resp := rfl
@[simp] theorem emit_respLen (e : Event) : (emit e s).respLen = s.respLen := rfl
@[simp] theorem emit_words (e : Event) : (emit e s).words = s.words := rfl
@[simp] theorem emit_wordCount (e : Event) : (emit e s).wordCount = s.wordCount := rfl
@[simp] theorem emit_txIdx (e : Event) : (emit e s).txIdx = s.txIdx := rfl
@[simp] theorem emit_nowR (e : Event) : (emit e s).nowR = s.nowR := rfl
@[simp] theorem emit_frameR (e : Event) : (emit e s).frameR = s.frameR := rfl
@[simp] theorem emit_anchor (e : Event) : (emit e s).anchor = s.anchor := rfl
@[simp] theorem emit_anchorValid (e : Event) : (emit e s).anchorValid = s.anchorValid := rfl
@[simp] theorem emit_chanCfg (e : Event) : (emit e s).chanCfg = s.chanCfg := rfl
@[simp] theorem emit_chan (e : Event) : (emit e s).chan = s.chan := rfl
@[simp] theorem emit_params (e : Event) : (emit e s).params = s.params := rfl
@[simp] theorem emit_nowIn (e : Event) : (emit e s).nowIn = s.nowIn := rfl
@[simp] theorem emit_nowDraws (e : Event) : (emit e s).nowDraws = s.nowDraws := rfl
@[simp] theorem emit_agenda (e : Event) : (emit e s).agenda = s.agenda := rfl
@[simp] theorem emit_trace (e : Event) : (emit e s).trace = s.trace ++ [e] := rfl

@[simp] theorem goto_pc (f : Fsm) (p : Phase) : (goto f p s).pc = ⟨f, p⟩ := rfl
@[simp] theorem goto_opcode (f : Fsm) (p : Phase) : (goto f p s).opcode = s.opcode := rfl
@[simp] theorem goto_resp (f : Fsm) (p : Phase) : (goto f p s).resp = s.resp := rfl
@[simp] theorem goto_respLen (f : Fsm) (p : Phase) : (goto f p s).respLen = s.respLen := rfl
@[simp] theorem goto_words (f : Fsm) (p : Phase) : (goto f p s).words = s.words := rfl
@[simp] theorem goto_wordCount (f : Fsm) (p : Phase) : (goto f p s).wordCount = s.wordCount := rfl
@[simp] theorem goto_txIdx (f : Fsm) (p : Phase) : (goto f p s).txIdx = s.txIdx := rfl
@[simp] theorem goto_nowR (f : Fsm) (p : Phase) : (goto f p s).nowR = s.nowR := rfl
@[simp] theorem goto_frameR (f : Fsm) (p : Phase) : (goto f p s).frameR = s.frameR := rfl
@[simp] theorem goto_anchor (f : Fsm) (p : Phase) : (goto f p s).anchor = s.anchor := rfl
@[simp] theorem goto_anchorValid (f : Fsm) (p : Phase) :
    (goto f p s).anchorValid = s.anchorValid := rfl
@[simp] theorem goto_chanCfg (f : Fsm) (p : Phase) : (goto f p s).chanCfg = s.chanCfg := rfl
@[simp] theorem goto_chan (f : Fsm) (p : Phase) : (goto f p s).chan = s.chan := rfl
@[simp] theorem goto_params (f : Fsm) (p : Phase) : (goto f p s).params = s.params := rfl
@[simp] theorem goto_nowIn (f : Fsm) (p : Phase) : (goto f p s).nowIn = s.nowIn := rfl
@[simp] theorem goto_nowDraws (f : Fsm) (p : Phase) : (goto f p s).nowDraws = s.nowDraws := rfl
@[simp] theorem goto_agenda (f : Fsm) (p : Phase) : (goto f p s).agenda = s.agenda := rfl
@[simp] theorem goto_trace (f : Fsm) (p : Phase) : (goto f p s).trace = s.trace := rfl

@[simp] theorem goPhase_pc (p : Phase) : (goPhase p s).pc = ⟨s.pc.fsm, p⟩ := rfl
@[simp] theorem goPhase_opcode (p : Phase) : (goPhase p s).opcode = s.opcode := rfl
@[simp] theorem goPhase_resp (p : Phase) : (goPhase p s).resp = s.resp := rfl
@[simp] theorem goPhase_respLen (p : Phase) : (goPhase p s).respLen = s.respLen := rfl
@[simp] theorem goPhase_words (p : Phase) : (goPhase p s).words = s.words := rfl
@[simp] theorem goPhase_wordCount (p : Phase) : (goPhase p s).wordCount = s.wordCount := rfl
@[simp] theorem goPhase_txIdx (p : Phase) : (goPhase p s).txIdx = s.txIdx := rfl
@[simp] theorem goPhase_nowR (p : Phase) : (goPhase p s).nowR = s.nowR := rfl
@[simp] theorem goPhase_frameR (p : Phase) : (goPhase p s).frameR = s.frameR := rfl
@[simp] theorem goPhase_anchor (p : Phase) : (goPhase p s).anchor = s.anchor := rfl
@[simp] theorem goPhase_anchorValid (p : Phase) : (goPhase p s).anchorValid = s.anchorValid := rfl
@[simp] theorem goPhase_chanCfg (p : Phase) : (goPhase p s).chanCfg = s.chanCfg := rfl
@[simp] theorem goPhase_chan (p : Phase) : (goPhase p s).chan = s.chan := rfl
@[simp] theorem goPhase_params (p : Phase) : (goPhase p s).params = s.params := rfl
@[simp] theorem goPhase_nowIn (p : Phase) : (goPhase p s).nowIn = s.nowIn := rfl
@[simp] theorem goPhase_nowDraws (p : Phase) : (goPhase p s).nowDraws = s.nowDraws := rfl
@[simp] theorem goPhase_agenda (p : Phase) : (goPhase p s).agenda = s.agenda := rfl
@[simp] theorem goPhase_trace (p : Phase) : (goPhase p s).trace = s.trace := rfl

@[simp] theorem toListening_pc : (toListening s).pc = .idle := rfl
@[simp] theorem toListening_opcode : (toListening s).opcode = s.opcode := rfl
@[simp] theorem toListening_resp : (toListening s).resp = s.resp := rfl
@[simp] theorem toListening_respLen : (toListening s).respLen = s.respLen := rfl
@[simp] theorem toListening_words : (toListening s).words = s.words := rfl
@[simp] theorem toListening_wordCount : (toListening s).wordCount = s.wordCount := rfl
@[simp] theorem toListening_txIdx : (toListening s).txIdx = s.txIdx := rfl
@[simp] theorem toListening_nowR : (toListening s).nowR = s.nowR := rfl
@[simp] theorem toListening_frameR : (toListening s).frameR = s.frameR := rfl
@[simp] theorem toListening_anchor : (toListening s).anchor = s.anchor := rfl
@[simp] theorem toListening_anchorValid : (toListening s).anchorValid = s.anchorValid := rfl
@[simp] theorem toListening_chanCfg : (toListening s).chanCfg = s.chanCfg := rfl
@[simp] theorem toListening_chan : (toListening s).chan = s.chan := rfl
@[simp] theorem toListening_params : (toListening s).params = s.params := rfl
@[simp] theorem toListening_nowIn : (toListening s).nowIn = s.nowIn := rfl
@[simp] theorem toListening_nowDraws : (toListening s).nowDraws = s.nowDraws := rfl
@[simp] theorem toListening_agenda : (toListening s).agenda = s.agenda := rfl
@[simp] theorem toListening_trace : (toListening s).trace = s.trace := rfl

@[simp] theorem exceptionReturn_pc : (exceptionReturn s).pc = .idle := rfl
@[simp] theorem exceptionReturn_opcode : (exceptionReturn s).opcode = s.opcode := rfl
@[simp] theorem exceptionReturn_resp : (exceptionReturn s).resp = s.resp := rfl
@[simp] theorem exceptionReturn_respLen : (exceptionReturn s).respLen = s.respLen := rfl
@[simp] theorem exceptionReturn_words : (exceptionReturn s).words = s.words := rfl
@[simp] theorem exceptionReturn_wordCount : (exceptionReturn s).wordCount = s.wordCount := rfl
@[simp] theorem exceptionReturn_txIdx : (exceptionReturn s).txIdx = s.txIdx := rfl
@[simp] theorem exceptionReturn_nowR : (exceptionReturn s).nowR = s.nowR := rfl
@[simp] theorem exceptionReturn_frameR : (exceptionReturn s).frameR = s.frameR := rfl
@[simp] theorem exceptionReturn_anchor : (exceptionReturn s).anchor = s.anchor := rfl
@[simp] theorem exceptionReturn_anchorValid : (exceptionReturn s).anchorValid = s.anchorValid := rfl
@[simp] theorem exceptionReturn_chanCfg : (exceptionReturn s).chanCfg = s.chanCfg := rfl
@[simp] theorem exceptionReturn_chan : (exceptionReturn s).chan = s.chan := rfl
@[simp] theorem exceptionReturn_params : (exceptionReturn s).params = s.params := rfl
@[simp] theorem exceptionReturn_nowIn : (exceptionReturn s).nowIn = s.nowIn := rfl
@[simp] theorem exceptionReturn_nowDraws : (exceptionReturn s).nowDraws = s.nowDraws := rfl
@[simp] theorem exceptionReturn_agenda : (exceptionReturn s).agenda = s.agenda := rfl
@[simp] theorem exceptionReturn_trace : (exceptionReturn s).trace = s.trace := rfl

@[simp] theorem takeException_pc (op : Byte) :
    (takeException (.unknownCommand op) s).pc = ⟨.recovering, .disable⟩ := rfl
@[simp] theorem takeException_opcode (op : Byte) :
    (takeException (.unknownCommand op) s).opcode = s.opcode := rfl
@[simp] theorem takeException_resp (op : Byte) :
    (takeException (.unknownCommand op) s).resp = s.resp := rfl
@[simp] theorem takeException_respLen (op : Byte) :
    (takeException (.unknownCommand op) s).respLen = s.respLen := rfl
@[simp] theorem takeException_words (op : Byte) :
    (takeException (.unknownCommand op) s).words = s.words := rfl
@[simp] theorem takeException_wordCount (op : Byte) :
    (takeException (.unknownCommand op) s).wordCount = s.wordCount := rfl
@[simp] theorem takeException_txIdx (op : Byte) :
    (takeException (.unknownCommand op) s).txIdx = s.txIdx := rfl
@[simp] theorem takeException_nowR (op : Byte) :
    (takeException (.unknownCommand op) s).nowR = s.nowR := rfl
@[simp] theorem takeException_frameR (op : Byte) :
    (takeException (.unknownCommand op) s).frameR = s.frameR := rfl
@[simp] theorem takeException_anchor (op : Byte) :
    (takeException (.unknownCommand op) s).anchor = s.anchor := rfl
@[simp] theorem takeException_anchorValid (op : Byte) :
    (takeException (.unknownCommand op) s).anchorValid = s.anchorValid := rfl
@[simp] theorem takeException_chanCfg (op : Byte) :
    (takeException (.unknownCommand op) s).chanCfg = s.chanCfg := rfl
@[simp] theorem takeException_chan (op : Byte) :
    (takeException (.unknownCommand op) s).chan = s.chan := rfl
@[simp] theorem takeException_params (op : Byte) :
    (takeException (.unknownCommand op) s).params = s.params := rfl
@[simp] theorem takeException_nowIn (op : Byte) :
    (takeException (.unknownCommand op) s).nowIn = s.nowIn := rfl
@[simp] theorem takeException_nowDraws (op : Byte) :
    (takeException (.unknownCommand op) s).nowDraws = s.nowDraws := rfl
@[simp] theorem takeException_agenda (op : Byte) :
    (takeException (.unknownCommand op) s).agenda = s.agenda := rfl
@[simp] theorem takeException_trace (op : Byte) :
    (takeException (.unknownCommand op) s).trace = s.trace := rfl

@[simp] theorem dlyWait_pc (n : Nat) : (dlyWait n s).pc = s.pc := rfl
@[simp] theorem dlyWait_opcode (n : Nat) : (dlyWait n s).opcode = s.opcode := rfl
@[simp] theorem dlyWait_resp (n : Nat) : (dlyWait n s).resp = s.resp := rfl
@[simp] theorem dlyWait_respLen (n : Nat) : (dlyWait n s).respLen = s.respLen := rfl
@[simp] theorem dlyWait_words (n : Nat) : (dlyWait n s).words = s.words := rfl
@[simp] theorem dlyWait_wordCount (n : Nat) : (dlyWait n s).wordCount = s.wordCount := rfl
@[simp] theorem dlyWait_txIdx (n : Nat) : (dlyWait n s).txIdx = s.txIdx := rfl
@[simp] theorem dlyWait_nowR (n : Nat) : (dlyWait n s).nowR = s.nowR := rfl
@[simp] theorem dlyWait_frameR (n : Nat) : (dlyWait n s).frameR = s.frameR := rfl
@[simp] theorem dlyWait_anchor (n : Nat) : (dlyWait n s).anchor = s.anchor := rfl
@[simp] theorem dlyWait_anchorValid (n : Nat) : (dlyWait n s).anchorValid = s.anchorValid := rfl
@[simp] theorem dlyWait_chanCfg (n : Nat) : (dlyWait n s).chanCfg = s.chanCfg := rfl
@[simp] theorem dlyWait_chan (n : Nat) : (dlyWait n s).chan = s.chan := rfl
@[simp] theorem dlyWait_params (n : Nat) : (dlyWait n s).params = s.params := rfl
@[simp] theorem dlyWait_nowIn (n : Nat) : (dlyWait n s).nowIn = s.nowIn := rfl
@[simp] theorem dlyWait_nowDraws (n : Nat) : (dlyWait n s).nowDraws = s.nowDraws := rfl
@[simp] theorem dlyWait_agenda (n : Nat) : (dlyWait n s).agenda = s.agenda := rfl
@[simp] theorem dlyWait_trace (n : Nat) : (dlyWait n s).trace = s.trace ++ [.wait n] := rfl

@[simp] theorem scSetMode_pc (m : ChanMode) : (scSetMode m s).pc = s.pc := rfl
@[simp] theorem scSetMode_opcode (m : ChanMode) : (scSetMode m s).opcode = s.opcode := rfl
@[simp] theorem scSetMode_resp (m : ChanMode) : (scSetMode m s).resp = s.resp := rfl
@[simp] theorem scSetMode_respLen (m : ChanMode) : (scSetMode m s).respLen = s.respLen := rfl
@[simp] theorem scSetMode_words (m : ChanMode) : (scSetMode m s).words = s.words := rfl
@[simp] theorem scSetMode_wordCount (m : ChanMode) : (scSetMode m s).wordCount = s.wordCount := rfl
@[simp] theorem scSetMode_txIdx (m : ChanMode) : (scSetMode m s).txIdx = s.txIdx := rfl
@[simp] theorem scSetMode_nowR (m : ChanMode) : (scSetMode m s).nowR = s.nowR := rfl
@[simp] theorem scSetMode_frameR (m : ChanMode) : (scSetMode m s).frameR = s.frameR := rfl
@[simp] theorem scSetMode_anchor (m : ChanMode) : (scSetMode m s).anchor = s.anchor := rfl
@[simp] theorem scSetMode_anchorValid (m : ChanMode) :
    (scSetMode m s).anchorValid = s.anchorValid := rfl
@[simp] theorem scSetMode_chanCfg (m : ChanMode) : (scSetMode m s).chanCfg = s.chanCfg := rfl
@[simp] theorem scSetMode_chan (m : ChanMode) :
    (scSetMode m s).chan = { s.chan with mode := m } := rfl
@[simp] theorem scSetMode_params (m : ChanMode) : (scSetMode m s).params = s.params := rfl
@[simp] theorem scSetMode_nowIn (m : ChanMode) : (scSetMode m s).nowIn = s.nowIn := rfl
@[simp] theorem scSetMode_nowDraws (m : ChanMode) : (scSetMode m s).nowDraws = s.nowDraws := rfl
@[simp] theorem scSetMode_agenda (m : ChanMode) : (scSetMode m s).agenda = s.agenda := rfl
@[simp] theorem scSetMode_trace (m : ChanMode) : (scSetMode m s).trace = s.trace ++ [.mode m] := rfl

@[simp] theorem scDisable_pc : (scDisable s).pc = s.pc := rfl
@[simp] theorem scDisable_opcode : (scDisable s).opcode = s.opcode := rfl
@[simp] theorem scDisable_resp : (scDisable s).resp = s.resp := rfl
@[simp] theorem scDisable_respLen : (scDisable s).respLen = s.respLen := rfl
@[simp] theorem scDisable_words : (scDisable s).words = s.words := rfl
@[simp] theorem scDisable_wordCount : (scDisable s).wordCount = s.wordCount := rfl
@[simp] theorem scDisable_txIdx : (scDisable s).txIdx = s.txIdx := rfl
@[simp] theorem scDisable_nowR : (scDisable s).nowR = s.nowR := rfl
@[simp] theorem scDisable_frameR : (scDisable s).frameR = s.frameR := rfl
@[simp] theorem scDisable_anchor : (scDisable s).anchor = s.anchor := rfl
@[simp] theorem scDisable_anchorValid : (scDisable s).anchorValid = s.anchorValid := rfl
@[simp] theorem scDisable_chanCfg : (scDisable s).chanCfg = s.chanCfg := rfl
@[simp] theorem scDisable_chan : (scDisable s).chan = { s.chan with enabled := false } := rfl
@[simp] theorem scDisable_params : (scDisable s).params = s.params := rfl
@[simp] theorem scDisable_nowIn : (scDisable s).nowIn = s.nowIn := rfl
@[simp] theorem scDisable_nowDraws : (scDisable s).nowDraws = s.nowDraws := rfl
@[simp] theorem scDisable_agenda : (scDisable s).agenda = s.agenda := rfl
@[simp] theorem scDisable_trace : (scDisable s).trace = s.trace ++ [.disable] := rfl

@[simp] theorem scEnable_pc : (scEnable s).pc = s.pc := rfl
@[simp] theorem scEnable_opcode : (scEnable s).opcode = s.opcode := rfl
@[simp] theorem scEnable_resp : (scEnable s).resp = s.resp := rfl
@[simp] theorem scEnable_respLen : (scEnable s).respLen = s.respLen := rfl
@[simp] theorem scEnable_words : (scEnable s).words = s.words := rfl
@[simp] theorem scEnable_wordCount : (scEnable s).wordCount = s.wordCount := rfl
@[simp] theorem scEnable_txIdx : (scEnable s).txIdx = s.txIdx := rfl
@[simp] theorem scEnable_nowR : (scEnable s).nowR = s.nowR := rfl
@[simp] theorem scEnable_frameR : (scEnable s).frameR = s.frameR := rfl
@[simp] theorem scEnable_anchor : (scEnable s).anchor = s.anchor := rfl
@[simp] theorem scEnable_anchorValid : (scEnable s).anchorValid = s.anchorValid := rfl
@[simp] theorem scEnable_chanCfg : (scEnable s).chanCfg = s.chanCfg := rfl
@[simp] theorem scEnable_chan : (scEnable s).chan = { s.chan with enabled := true } := rfl
@[simp] theorem scEnable_params : (scEnable s).params = s.params := rfl
@[simp] theorem scEnable_nowIn : (scEnable s).nowIn = s.nowIn := rfl
@[simp] theorem scEnable_nowDraws : (scEnable s).nowDraws = s.nowDraws := rfl
@[simp] theorem scEnable_agenda : (scEnable s).agenda = s.agenda := rfl
@[simp] theorem scEnable_trace : (scEnable s).trace = s.trace ++ [.enable] := rfl

@[simp] theorem scInit_pc (m : ChanMode) : (scInit m s).pc = s.pc := rfl
@[simp] theorem scInit_opcode (m : ChanMode) : (scInit m s).opcode = s.opcode := rfl
@[simp] theorem scInit_resp (m : ChanMode) : (scInit m s).resp = s.resp := rfl
@[simp] theorem scInit_respLen (m : ChanMode) : (scInit m s).respLen = s.respLen := rfl
@[simp] theorem scInit_words (m : ChanMode) : (scInit m s).words = s.words := rfl
@[simp] theorem scInit_wordCount (m : ChanMode) : (scInit m s).wordCount = s.wordCount := rfl
@[simp] theorem scInit_txIdx (m : ChanMode) : (scInit m s).txIdx = s.txIdx := rfl
@[simp] theorem scInit_nowR (m : ChanMode) : (scInit m s).nowR = s.nowR := rfl
@[simp] theorem scInit_frameR (m : ChanMode) : (scInit m s).frameR = s.frameR := rfl
@[simp] theorem scInit_anchor (m : ChanMode) : (scInit m s).anchor = s.anchor := rfl
@[simp] theorem scInit_anchorValid (m : ChanMode) : (scInit m s).anchorValid = s.anchorValid := rfl
@[simp] theorem scInit_chanCfg (m : ChanMode) : (scInit m s).chanCfg = s.chanCfg := rfl
@[simp] theorem scInit_chan (m : ChanMode) :
    (scInit m s).chan = { s.chan with
        cfg := s.chanCfg
        mode := m
        rx := if s.params.scFlushOnInit then [] else s.chan.rx
        tx := if s.params.txFlushOnInit then [] else s.chan.tx } := rfl
@[simp] theorem scInit_params (m : ChanMode) : (scInit m s).params = s.params := rfl
@[simp] theorem scInit_nowIn (m : ChanMode) : (scInit m s).nowIn = s.nowIn := rfl
@[simp] theorem scInit_nowDraws (m : ChanMode) : (scInit m s).nowDraws = s.nowDraws := rfl
@[simp] theorem scInit_agenda (m : ChanMode) : (scInit m s).agenda = s.agenda := rfl
@[simp] theorem scInit_trace (m : ChanMode) : (scInit m s).trace = s.trace ++ [.init m] := rfl

@[simp] theorem setAnchor_pc (t : TimeUs) : (setAnchor t s).pc = s.pc := rfl
@[simp] theorem setAnchor_opcode (t : TimeUs) : (setAnchor t s).opcode = s.opcode := rfl
@[simp] theorem setAnchor_resp (t : TimeUs) : (setAnchor t s).resp = s.resp := rfl
@[simp] theorem setAnchor_respLen (t : TimeUs) : (setAnchor t s).respLen = s.respLen := rfl
@[simp] theorem setAnchor_words (t : TimeUs) : (setAnchor t s).words = s.words := rfl
@[simp] theorem setAnchor_wordCount (t : TimeUs) : (setAnchor t s).wordCount = s.wordCount := rfl
@[simp] theorem setAnchor_txIdx (t : TimeUs) : (setAnchor t s).txIdx = s.txIdx := rfl
@[simp] theorem setAnchor_nowR (t : TimeUs) : (setAnchor t s).nowR = s.nowR := rfl
@[simp] theorem setAnchor_frameR (t : TimeUs) : (setAnchor t s).frameR = s.frameR := rfl
@[simp] theorem setAnchor_anchor (t : TimeUs) : (setAnchor t s).anchor = t := rfl
@[simp] theorem setAnchor_anchorValid (t : TimeUs) : (setAnchor t s).anchorValid = true := rfl
@[simp] theorem setAnchor_chanCfg (t : TimeUs) : (setAnchor t s).chanCfg = s.chanCfg := rfl
@[simp] theorem setAnchor_chan (t : TimeUs) : (setAnchor t s).chan = s.chan := rfl
@[simp] theorem setAnchor_params (t : TimeUs) : (setAnchor t s).params = s.params := rfl
@[simp] theorem setAnchor_nowIn (t : TimeUs) : (setAnchor t s).nowIn = s.nowIn := rfl
@[simp] theorem setAnchor_nowDraws (t : TimeUs) : (setAnchor t s).nowDraws = s.nowDraws := rfl
@[simp] theorem setAnchor_agenda (t : TimeUs) : (setAnchor t s).agenda = s.agenda := rfl
@[simp] theorem setAnchor_trace (t : TimeUs) : (setAnchor t s).trace = s.trace := rfl

@[simp] theorem txReadyIs_pc (r : Bool) : (txReadyIs r s).pc = s.pc := rfl
@[simp] theorem txReadyIs_opcode (r : Bool) : (txReadyIs r s).opcode = s.opcode := rfl
@[simp] theorem txReadyIs_resp (r : Bool) : (txReadyIs r s).resp = s.resp := rfl
@[simp] theorem txReadyIs_respLen (r : Bool) : (txReadyIs r s).respLen = s.respLen := rfl
@[simp] theorem txReadyIs_words (r : Bool) : (txReadyIs r s).words = s.words := rfl
@[simp] theorem txReadyIs_wordCount (r : Bool) : (txReadyIs r s).wordCount = s.wordCount := rfl
@[simp] theorem txReadyIs_txIdx (r : Bool) : (txReadyIs r s).txIdx = s.txIdx := rfl
@[simp] theorem txReadyIs_nowR (r : Bool) : (txReadyIs r s).nowR = s.nowR := rfl
@[simp] theorem txReadyIs_frameR (r : Bool) : (txReadyIs r s).frameR = s.frameR := rfl
@[simp] theorem txReadyIs_anchor (r : Bool) : (txReadyIs r s).anchor = s.anchor := rfl
@[simp] theorem txReadyIs_anchorValid (r : Bool) :
    (txReadyIs r s).anchorValid = s.anchorValid := rfl
@[simp] theorem txReadyIs_chanCfg (r : Bool) : (txReadyIs r s).chanCfg = s.chanCfg := rfl
@[simp] theorem txReadyIs_chan (r : Bool) :
    (txReadyIs r s).chan = { s.chan with txReady := r } := rfl
@[simp] theorem txReadyIs_params (r : Bool) : (txReadyIs r s).params = s.params := rfl
@[simp] theorem txReadyIs_nowIn (r : Bool) : (txReadyIs r s).nowIn = s.nowIn := rfl
@[simp] theorem txReadyIs_nowDraws (r : Bool) : (txReadyIs r s).nowDraws = s.nowDraws := rfl
@[simp] theorem txReadyIs_agenda (r : Bool) : (txReadyIs r s).agenda = s.agenda := rfl
@[simp] theorem txReadyIs_trace (r : Bool) : (txReadyIs r s).trace = s.trace := rfl

@[simp] theorem dropReading_pc : (dropReading s).pc = s.pc := by unfold dropReading; split <;> rfl
@[simp] theorem dropReading_opcode : (dropReading s).opcode = s.opcode := by unfold dropReading; split <;> rfl
@[simp] theorem dropReading_resp : (dropReading s).resp = s.resp := by unfold dropReading; split <;> rfl
@[simp] theorem dropReading_respLen : (dropReading s).respLen = s.respLen := by unfold dropReading; split <;> rfl
@[simp] theorem dropReading_words : (dropReading s).words = s.words := by unfold dropReading; split <;> rfl
@[simp] theorem dropReading_wordCount : (dropReading s).wordCount = s.wordCount := by unfold dropReading; split <;> rfl
@[simp] theorem dropReading_txIdx : (dropReading s).txIdx = s.txIdx := by unfold dropReading; split <;> rfl
@[simp] theorem dropReading_nowR : (dropReading s).nowR = s.nowR := by unfold dropReading; split <;> rfl
@[simp] theorem dropReading_frameR : (dropReading s).frameR = s.frameR := by unfold dropReading; split <;> rfl
@[simp] theorem dropReading_anchor : (dropReading s).anchor = s.anchor := by unfold dropReading; split <;> rfl
@[simp] theorem dropReading_anchorValid : (dropReading s).anchorValid = s.anchorValid := by unfold dropReading; split <;> rfl
@[simp] theorem dropReading_chanCfg : (dropReading s).chanCfg = s.chanCfg := by unfold dropReading; split <;> rfl
@[simp] theorem dropReading_chan : (dropReading s).chan = s.chan := by unfold dropReading; split <;> rfl
@[simp] theorem dropReading_params : (dropReading s).params = s.params := by unfold dropReading; split <;> rfl
@[simp] theorem dropReading_agenda : (dropReading s).agenda = s.agenda := by unfold dropReading; split <;> rfl
@[simp] theorem dropReading_trace : (dropReading s).trace = s.trace := by unfold dropReading; split <;> rfl

@[simp] theorem tsNow_pc : (tsNow s).pc = s.pc := by simp [tsNow]
@[simp] theorem tsNow_opcode : (tsNow s).opcode = s.opcode := by simp [tsNow]
@[simp] theorem tsNow_resp : (tsNow s).resp = s.resp := by simp [tsNow]
@[simp] theorem tsNow_respLen : (tsNow s).respLen = s.respLen := by simp [tsNow]
@[simp] theorem tsNow_words : (tsNow s).words = s.words := by simp [tsNow]
@[simp] theorem tsNow_wordCount : (tsNow s).wordCount = s.wordCount := by simp [tsNow]
@[simp] theorem tsNow_txIdx : (tsNow s).txIdx = s.txIdx := by simp [tsNow]
@[simp] theorem tsNow_nowR : (tsNow s).nowR = nextReading s := rfl
@[simp] theorem tsNow_frameR : (tsNow s).frameR = s.frameR := by simp [tsNow]
@[simp] theorem tsNow_anchor : (tsNow s).anchor = s.anchor := by simp [tsNow]
@[simp] theorem tsNow_anchorValid : (tsNow s).anchorValid = s.anchorValid := by simp [tsNow]
@[simp] theorem tsNow_chanCfg : (tsNow s).chanCfg = s.chanCfg := by simp [tsNow]
@[simp] theorem tsNow_chan : (tsNow s).chan = s.chan := by simp [tsNow]
@[simp] theorem tsNow_params : (tsNow s).params = s.params := by simp [tsNow]
@[simp] theorem tsNow_nowIn : (tsNow s).nowIn = (dropReading s).nowIn := rfl
@[simp] theorem tsNow_nowDraws : (tsNow s).nowDraws = (dropReading s).nowDraws := rfl
@[simp] theorem tsNow_agenda : (tsNow s).agenda = s.agenda := by simp [tsNow]
@[simp] theorem tsNow_trace : (tsNow s).trace = s.trace ++ [.now (nextReading s)] := by simp [tsNow]

end Sys2Proof.Machine
end

