-- ==== Sys2Proof/Laws/Ops.lean ====
section
/-! SUPPORT. The shared operations: what each answers, said once. -/

namespace Sys2Proof.Machine

/-! ## Outcomes -/

@[simp] theorem andThen_next (s : State) (f : State → StepResult) :
    andThen (.next s) f = f s := rfl

@[simp] theorem andThen_fault (r : Fault) (f : State → StepResult) :
    andThen (.fault r) f = .fault r := rfl

@[simp] theorem andThen_refused (r : Refusal) (f : State → StepResult) :
    andThen (.refused r) f = .refused r := rfl

theorem andThen_eq_next {x : StepResult} {f : State → StepResult} {t : State} :
    andThen x f = .next t ↔ ∃ u, x = .next u ∧ f u = .next t := by
  cases x <;> simp

theorem andThen_assoc (x : StepResult) (f g : State → StepResult) :
    andThen (andThen x f) g = andThen x fun s => andThen (f s) g := by
  cases x <;> rfl

/-! ## The channel's primitives -/

theorem scRead8_none {s : State} (h : s.chan.rx = []) : scRead8 s = none := by
  simp [scRead8, h]

theorem scRead8_some {s : State} {b : Byte} {rest : List Byte} (h : s.chan.rx = b :: rest) :
    scRead8 s = some (b, { s with
      chan := { s.chan with rx := rest }
      trace := s.trace ++ [.rx b] }) := by
  simp [scRead8, h, emit]

theorem scWrite32_some (w : SymbolWord) {s : State} (h : accepts s.chan = true) :
    scWrite32 w s = some { s with
      chan := { s.chan with tx := s.chan.tx ++ [w] }
      trace := s.trace ++ [.tx w] } := by
  simp [scWrite32, h, emit]

theorem scWrite32_none (w : SymbolWord) {s : State} (h : accepts s.chan = false) :
    scWrite32 w s = none := by
  simp [scWrite32, h]

theorem accepts_iff (c : Channel) :
    accepts c = true ↔ c.enabled = true ∧ c.mode = .output ∧ c.txReady = true := by
  simp [accepts, and_assoc]

/-! ## The encoder, as far as the handlers need it -/

@[simp] theorem symbolEncode_length (s : List Byte) :
    (symbolEncode s).length = symbolWordCount s.length := by
  simp [symbolEncode]

theorem symbolWordCount_le {n : Nat} (h : n ≤ Config.maxResponseBytes) :
    symbolWordCount n ≤ Config.maxWords := by
  unfold symbolWordCount
  split
  · omega
  · simp only [Config.maxWords]; omega

theorem symbolWordCount_pos {n : Nat} (h : n ≠ 0) : 0 < symbolWordCount n := by
  simp [symbolWordCount, h]

/-! ## Response sources -/

@[simp] theorem recordBytesOf_length (r : Record) : (recordBytesOf r).length = 10 := by
  simp [recordBytesOf]

@[simp] theorem recordBytesOf_getElem? (r : Record) (k : Nat) :
    (recordBytesOf r)[k]? = r.toList[k]? := by
  simp only [recordBytesOf, List.getElem?_map]
  by_cases h : k < 10
  · rw [List.getElem?_eq_getElem (by simpa using h), List.getElem?_eq_getElem (by simpa using h)]
    simp [Vector.get]
  · rw [List.getElem?_eq_none (by simpa using h), List.getElem?_eq_none (by simpa using h)]
    rfl

theorem rfsFetch_recorded {recorded : List Record} {idx : FrameIdx} {r : Record}
    (h : recorded[idx.toNat]? = some r) : rfsFetch (defaultRfs recorded) idx = r := by
  simp [rfsFetch, defaultRfs, h]

theorem rfsFetch_beyond {recorded : List Record} {idx : FrameIdx} (h : recorded.length ≤ idx.toNat) :
    rfsFetch (defaultRfs recorded) idx = neutralRecord := by
  simp [rfsFetch, defaultRfs, h]

/-- Every total function from frame index to record is a Replay Frame Source of the model (R7, R173). -/
theorem exists_rfs (f : FrameIdx → Record) : ∃ r : Rfs, ∀ idx, rfsFetch r idx = f idx := by
  obtain ⟨n, hn⟩ : ∃ n, ∀ idx : FrameIdx, idx.toNat < n := ⟨_, fun idx => idx.isLt⟩
  refine ⟨⟨(List.range n).map fun k => f (BitVec.ofNat _ k), f 0⟩, fun idx => ?_⟩
  simp [rfsFetch, List.getD, hn idx]

/-! ## SYNC -/

theorem sync_first {s : State} (h : s.anchorValid = false) :
    sync s = .next { s with anchor := s.nowR, anchorValid := true, frameR := 0 } := by
  simp [sync, firstPoll, h, setAnchor]

theorem sync_later {s : State} (h : s.anchorValid = true) (hle : s.anchor ≤ s.nowR) :
    sync s = .next { s with frameR := frameOf (s.nowR - s.anchor) } := by
  have : ¬ s.nowR < s.anchor := by simpa [BitVec.not_lt] using hle
  simp [sync, firstPoll, h, this]

theorem sync_refused {s : State} (h : s.anchorValid = true) (hlt : s.nowR < s.anchor) :
    sync s = .refused .timeBeforeAnchor := by
  simp [sync, firstPoll, h, hlt]

end Sys2Proof.Machine
end

