-- ==== Sys2Proof/Laws/Handlers.lean ====
section
/-! SUPPORT. What each phase answers, and how a run of phases is taken apart. -/

namespace Sys2Proof.Machine

/-! ## The phases -/

theorem loadResponse_fits {bs : List Byte} (s : State) (h : bs.length ≤ Config.maxResponseBytes) :
    loadResponse bs s = .next { s with resp := memWrite s.resp 0 bs, respLen := bs.length } := by
  simp only [loadResponse, if_pos h]

/-- The encoder's step, where RESP holds the counted bytes `bs` and they fit. -/
theorem encodeResponse_of {s : State} {bs : List Byte} (h : memRead s.resp 0 s.respLen = some bs)
    (hl : bs.length ≤ Config.maxResponseBytes) :
    encodeResponse s = .next
      { s with
        words := memWrite s.words 0 (symbolEncode bs)
        wordCount := symbolWordCount bs.length } := by
  have hw := symbolWordCount_le hl
  simp only [encodeResponse, h, symbolEncode_length, if_pos hw]

/-- Assembling a response and encoding it: RESP and WORDS hold it and its words. -/
theorem load_then_encode {bs : List Byte} (s : State) (k : State → StepResult)
    (hl : bs.length ≤ Config.maxResponseBytes) :
    (andThen (loadResponse bs s) fun s => andThen (encodeResponse s) k) =
      k { s with
          resp := memWrite s.resp 0 bs
          respLen := bs.length
          words := memWrite s.words 0 (symbolEncode bs)
          wordCount := symbolWordCount bs.length } := by
  rw [loadResponse_fits s hl, andThen_next, encodeResponse_of (bs := bs) (memRead_memWrite ..) hl,
    andThen_next]

theorem probeBuild_eq (s : State) :
    probeBuild s = .next
      { s with
        pc := ⟨s.pc.fsm, .delay⟩
        resp := memWrite s.resp 0 probePayload
        respLen := 3
        words := memWrite s.words 0 (symbolEncode probePayload)
        wordCount := 2 } := by
  rw [probeBuild, load_then_encode s _ (by decide)]
  rfl

theorem originBuild_eq (s : State) :
    originBuild s = .next
      { s with
        pc := ⟨s.pc.fsm, .mode⟩
        resp := memWrite s.resp 0 originPayload
        respLen := 10
        words := memWrite s.words 0 (symbolEncode originPayload)
        wordCount := 6 } := by
  rw [originBuild, load_then_encode s _ (by decide)]
  rfl

theorem pollLookup_eq (s : State) :
    pollLookup s = .next
      { s with
        pc := ⟨s.pc.fsm, .build⟩
        resp := memWrite s.resp 0 (recordBytesOf (rfsFetch s.params.rfs s.frameR))
        respLen := 10
        trace := s.trace ++ [.fetch s.frameR (rfsFetch s.params.rfs s.frameR)] } := by
  rw [pollLookup, loadResponse_fits _ (by simp)]
  simp [goPhase, emit]

/-- What a payload read can do: wait, or drop the oldest byte. -/
theorem payloadPhase_eq (p : Phase) (s : State) :
    payloadPhase p s = match s.chan.rx with
      | [] => .next s
      | b :: rest => .next
        { s with
          pc := ⟨s.pc.fsm, p⟩
          chan := { s.chan with rx := rest }
          trace := s.trace ++ [.rx b] } := by
  unfold payloadPhase
  cases h : s.chan.rx with
  | nil => simp [scRead8_none h]
  | cons b rest => simp [scRead8_some h, goPhase]

/-- What the fetch step can do: wait, or read an opcode and dispatch it. -/
theorem fetchPhase_eq (s : State) :
    fetchPhase s = match s.chan.rx with
      | [] => .next s
      | b :: rest => .next (dispatch (selects b rest)
        { s with
          opcode := b
          chan := { s.chan with rx := rest }
          trace := s.trace ++ [.rx b] }) := by
  unfold fetchPhase fetchOpcode
  cases h : s.chan.rx with
  | nil => simp [scRead8_none h]
  | cons b rest => simp [scRead8_some h, fetchedInstr]

/-- DISPATCH writes the pc and nothing else. -/
theorem dispatch_eq (i : Instr) (s : State) :
    dispatch i s =
      { s with
        pc := match i with
          | .probe => ⟨.respondingProbe, .build⟩
          | .origin => ⟨.respondingOrigin, .build⟩
          | .poll _ _ => ⟨.respondingPoll, .pay0⟩
          | .recover _ => ⟨.recovering, .disable⟩ } := by
  cases i <;> rfl

/-- The time phase, completed: the first Poll sets the anchor, a later one keeps it. -/
theorem pollTime_eq_next {s t : State} :
    pollTime s = .next t ↔
      (s.anchorValid = false ∧ t = { dropReading s with
        pc := ⟨s.pc.fsm, .lookup⟩
        nowR := nextReading s
        anchor := nextReading s
        anchorValid := true
        frameR := 0
        trace := s.trace ++ [.now (nextReading s)] }) ∨
      (s.anchorValid = true ∧ s.anchor ≤ nextReading s ∧ t = { dropReading s with
        pc := ⟨s.pc.fsm, .lookup⟩
        nowR := nextReading s
        frameR := frameOf (nextReading s - s.anchor)
        trace := s.trace ++ [.now (nextReading s)] }) := by
  unfold pollTime
  cases hv : s.anchorValid with
  | false =>
    rw [sync_first (by simpa using hv)]
    simp [goPhase, tsNow, emit, eq_comm]
  | true =>
    by_cases hle : s.anchor ≤ nextReading s
    · rw [sync_later (by simpa using hv) (by simpa using hle)]
      simp [goPhase, tsNow, emit, eq_comm, hle]
    · rw [sync_refused (by simpa using hv) (by simpa [BitVec.not_le] using hle)]
      simp [hle]

/-- The only way the time phase does not complete. -/
theorem pollTime_eq_refused {s : State} {r : Refusal} :
    pollTime s = .refused r ↔
      s.anchorValid = true ∧ nextReading s < s.anchor ∧ r = .timeBeforeAnchor := by
  unfold pollTime
  cases hv : s.anchorValid with
  | false =>
    rw [sync_first (by simpa using hv)]
    simp
  | true =>
    by_cases hle : s.anchor ≤ nextReading s
    · rw [sync_later (by simpa using hv) (by simpa using hle)]
      simp [BitVec.not_lt.2 hle]
    · rw [sync_refused (by simpa using hv) (by simpa [BitVec.not_le] using hle)]
      simp [BitVec.not_le.1 hle, eq_comm]

theorem modePhase_eq (s : State) :
    modePhase s = if s.wordCount = 0 then .next { s with pc := .idle } else .next
      { s with
        pc := ⟨s.pc.fsm, .tx⟩
        txIdx := 0
        chan := { s.chan with mode := .output }
        trace := s.trace ++ [.mode .output] } := by
  simp [modePhase, toListening, goto, goPhase, scSetMode, emit]

/-- A completed `tx` step writes the word that `tx_idx` counts. -/
theorem txPhase_write {s : State} {w : SymbolWord} (hi : s.txIdx < s.wordCount)
    (hw : Memory.read s.words s.txIdx = some w) (ha : accepts s.chan = true) :
    txPhase s = .next
      { s with
        pc := if s.txIdx + 1 < s.wordCount then s.pc else .idle
        txIdx := s.txIdx + 1
        chan := { s.chan with tx := s.chan.tx ++ [w] }
        trace := s.trace ++ [.tx w] } := by
  unfold txPhase
  rw [if_pos hi, hw]
  simp only [scWrite32_some w ha]
  split <;> rfl

/-- What a `tx` step can answer: it writes, it waits, or there is nothing left to write. -/
theorem txPhase_eq_next {s t : State} :
    txPhase s = .next t ↔
      (s.txIdx < s.wordCount ∧ accepts s.chan = true ∧
        ∃ w, Memory.read s.words s.txIdx = some w ∧ t =
          { s with
            pc := if s.txIdx + 1 < s.wordCount then s.pc else .idle
            txIdx := s.txIdx + 1
            chan := { s.chan with tx := s.chan.tx ++ [w] }
            trace := s.trace ++ [.tx w] }) ∨
      (s.txIdx < s.wordCount ∧ accepts s.chan = false ∧
        (Memory.read s.words s.txIdx).isSome = true ∧ t = s) ∨
      (¬ s.txIdx < s.wordCount ∧ t = { s with pc := .idle }) := by
  by_cases hi : s.txIdx < s.wordCount
  · cases hw : Memory.read s.words s.txIdx with
    | none => simp [txPhase, hi, hw]
    | some w =>
      cases ha : accepts s.chan with
      | true => rw [txPhase_write hi hw ha]; simp [hi]; exact eq_comm
      | false => simp [txPhase, hi, hw, scWrite32_none w ha]; exact eq_comm
  · simp [txPhase, hi, toListening, goto]; exact eq_comm

/-- What Poll's `build` can answer. -/
theorem pollBuild_eq_next {s t : State} :
    pollBuild s = .next t ↔
      ∃ bs, memRead s.resp 0 s.respLen = some bs ∧ symbolWordCount bs.length ≤ Config.maxWords ∧ t =
        { s with
          pc := ⟨s.pc.fsm, .mode⟩
          words := memWrite s.words 0 (symbolEncode bs)
          wordCount := symbolWordCount bs.length } := by
  unfold pollBuild encodeResponse
  cases memRead s.resp 0 s.respLen with
  | none => simp
  | some bs =>
    by_cases h : symbolWordCount bs.length ≤ Config.maxWords
    · simp [h, goPhase]; exact eq_comm
    · simp [h]

theorem recoverDisable_eq (s : State) :
    recoverDisable s = .next
      { s with
        pc := ⟨s.pc.fsm, .settle⟩
        chan := { s.chan with enabled := false }
        trace := s.trace ++ [.disable] } := rfl

theorem recoverSettle_eq (s : State) :
    recoverSettle s = .next
      { s with
        pc := ⟨s.pc.fsm, .init⟩
        trace := s.trace ++ [.wait s.params.recoverSettleUs] } := rfl

theorem recoverInit_eq (s : State) :
    recoverInit s = .next
      { s with
        pc := ⟨s.pc.fsm, .enable⟩
        chan := (scInit .input s).chan
        trace := s.trace ++ [.init .input] } := rfl

theorem recoverEnable_eq (s : State) :
    recoverEnable s = .next
      { s with
        pc := .idle
        chan := { s.chan with enabled := true }
        trace := s.trace ++ [.enable] } := rfl

theorem probeDelay_eq (s : State) :
    probeDelay s = .next
      { s with
        pc := ⟨s.pc.fsm, .mode⟩
        trace := s.trace ++ [.wait s.params.probeDelayUs] } := rfl

/-! ## The phase table, row by row -/

theorem phaseStep_fetch {s : State} (h : s.pc = ⟨.listening, .fetch⟩) : phaseStep s = fetchPhase s := by
  simp [phaseStep, h]

theorem phaseStep_probeBuild {s : State} (h : s.pc = ⟨.respondingProbe, .build⟩) : phaseStep s = probeBuild s := by
  simp [phaseStep, h]

theorem phaseStep_probeDelay {s : State} (h : s.pc = ⟨.respondingProbe, .delay⟩) : phaseStep s = probeDelay s := by
  simp [phaseStep, h]

theorem phaseStep_originBuild {s : State} (h : s.pc = ⟨.respondingOrigin, .build⟩) : phaseStep s = originBuild s := by
  simp [phaseStep, h]

theorem phaseStep_pay0 {s : State} (h : s.pc = ⟨.respondingPoll, .pay0⟩) : phaseStep s = payloadPhase .pay1 s := by
  simp [phaseStep, h]

theorem phaseStep_pay1 {s : State} (h : s.pc = ⟨.respondingPoll, .pay1⟩) : phaseStep s = payloadPhase .time s := by
  simp [phaseStep, h]

theorem phaseStep_time {s : State} (h : s.pc = ⟨.respondingPoll, .time⟩) : phaseStep s = pollTime s := by
  simp [phaseStep, h]

theorem phaseStep_lookup {s : State} (h : s.pc = ⟨.respondingPoll, .lookup⟩) : phaseStep s = pollLookup s := by
  simp [phaseStep, h]

theorem phaseStep_pollBuild {s : State} (h : s.pc = ⟨.respondingPoll, .build⟩) : phaseStep s = pollBuild s := by
  simp [phaseStep, h]

theorem phaseStep_disable {s : State} (h : s.pc = ⟨.recovering, .disable⟩) : phaseStep s = recoverDisable s := by
  simp [phaseStep, h]

theorem phaseStep_settle {s : State} (h : s.pc = ⟨.recovering, .settle⟩) : phaseStep s = recoverSettle s := by
  simp [phaseStep, h]

theorem phaseStep_init {s : State} (h : s.pc = ⟨.recovering, .init⟩) : phaseStep s = recoverInit s := by
  simp [phaseStep, h]

theorem phaseStep_enable {s : State} (h : s.pc = ⟨.recovering, .enable⟩) : phaseStep s = recoverEnable s := by
  simp [phaseStep, h]

/-- The three states that answer the host. -/
def Fsm.responding (f : Fsm) : Prop := f = .respondingProbe ∨ f = .respondingOrigin ∨ f = .respondingPoll

theorem phaseStep_mode {s : State} {f : Fsm} (hf : f.responding) (h : s.pc = ⟨f, .mode⟩) :
    phaseStep s = modePhase s := by
  rcases hf with rfl | rfl | rfl <;> simp [phaseStep, h]

theorem phaseStep_tx {s : State} {f : Fsm} (hf : f.responding) (h : s.pc = ⟨f, .tx⟩) :
    phaseStep s = txPhase s := by
  rcases hf with rfl | rfl | rfl <;> simp [phaseStep, h]

/-! ## Runs of phases -/

@[simp] theorem runHandler_zero (s : State) : runHandler 0 s = .next s := rfl

theorem runHandler_idle (n : Nat) {s : State} (h : s.pc = .idle) : runHandler n s = .next s := by
  cases n with
  | zero => rfl
  | succ n => simp [runHandler, h]

theorem runHandler_waits (n : Nat) {s : State} (h : waits s = true) : runHandler n s = .next s := by
  cases n with
  | zero => rfl
  | succ n => simp [runHandler, h]

theorem runHandler_succ (n : Nat) {s : State} (h : s.pc ≠ .idle) (hw : waits s = false) :
    runHandler (n + 1) s = andThen (phaseStep s) (runHandler n) := by
  simp [runHandler, h, hw]

/-- A run of phases is taken apart once: it stops at once, or it is a phase and a shorter run. -/
theorem runHandler_eq_next {n : Nat} {s t : State} (h : runHandler (n + 1) s = .next t) :
    t = s ∨ ∃ u, phaseStep s = .next u ∧ runHandler n u = .next t := by
  unfold runHandler at h
  split at h
  · simp at h; exact .inl h.symm
  · split at h
    · simp at h; exact .inl h.symm
    · exact .inr (andThen_eq_next.1 h)

/-- The phase is one in which the core never waits. -/
theorem waits_false {s : State} {f : Fsm} {p : Phase} (h : s.pc = ⟨f, p⟩)
    (hp : p ≠ .fetch ∧ p ≠ .pay0 ∧ p ≠ .pay1 ∧ p ≠ .tx) : waits s = false := by
  simp [waits, reading, h, hp]

/-- A phase that the core completes, and then the rest of the run. -/
theorem runHandler_step {s t u : State} {n : Nat} (h : s.pc ≠ .idle) (hw : waits s = false)
    (hp : phaseStep s = .next t) (hr : runHandler n t = .next u) : runHandler (n + 1) s = .next u := by
  rw [runHandler_succ n h hw, hp]; exact hr

/-- The `tx` phase on a channel that accepts: the words from `tx_idx` on, in order, and back to
Listening (R103). -/
theorem runHandler_tx {f : Fsm} (hf : f.responding) {ws : List SymbolWord} {n : Nat} {s : State}
    (hp : s.pc = ⟨f, .tx⟩) (hne : ws ≠ []) (hc : s.txIdx + ws.length = s.wordCount)
    (ha : accepts s.chan = true) (hm : memRead s.words s.txIdx ws.length = some ws)
    (hn : ws.length ≤ n) :
    runHandler n s = .next
      { s with
        pc := .idle
        txIdx := s.wordCount
        chan := { s.chan with tx := s.chan.tx ++ ws }
        trace := s.trace ++ ws.map .tx } := by
  induction ws generalizing n s with
  | nil => exact absurd rfl hne
  | cons w ws ih =>
    simp only [List.length_cons] at hn hc hm
    obtain ⟨n, rfl⟩ : ∃ m, n = m + 1 := ⟨n - 1, by omega⟩
    have hw : waits s = false := by simp [waits, reading, hp, ha]
    have hr := memRead_eq_some.1 hm
    have h0 : Memory.read s.words s.txIdx = some w := by simpa using hr.2 0 (by omega)
    refine runHandler_step (by simp [hp]) hw
      ((phaseStep_tx hf hp).trans (txPhase_write (by omega) h0 ha)) ?_
    cases ws with
    | nil =>
      rw [if_neg (by simp at hc; omega), runHandler_idle _ rfl]
      simp at hc; simp [hc]
    | cons w' ws =>
      rw [if_pos (by simp at hc; omega)]
      simp only [List.length_cons] at *
      refine (ih ?pc (by simp) ?count ?acc ?rd (by omega)).trans (by simp)
      case pc => exact hp
      case count => show s.txIdx + 1 + (ws.length + 1) = s.wordCount; omega
      case acc => simpa [accepts] using ha
      case rd =>
        refine memRead_eq_some.2 ⟨rfl, fun k hk => ?_⟩
        have := hr.2 (k + 1) (by omega)
        rwa [show s.txIdx + (k + 1) = s.txIdx + 1 + k by omega] at this

/-- TRANSMIT on an enabled channel that takes words (R103). -/
theorem runHandler_transmit {f : Fsm} (hf : f.responding) {ws : List SymbolWord} {n : Nat} {s : State}
    (hp : s.pc = ⟨f, .mode⟩) (hne : ws ≠ []) (hc : ws.length = s.wordCount)
    (he : s.chan.enabled = true) (hr : s.chan.txReady = true)
    (hm : memRead s.words 0 ws.length = some ws) (hn : ws.length < n) :
    runHandler n s = .next
      { s with
        pc := .idle
        txIdx := s.wordCount
        chan := { s.chan with mode := .output, tx := s.chan.tx ++ ws }
        trace := s.trace ++ .mode .output :: ws.map .tx } := by
  obtain ⟨n, rfl⟩ : ∃ m, n = m + 1 := ⟨n - 1, by omega⟩
  have hl : ws.length ≠ 0 := by simpa using hne
  have hstep := modePhase_eq s
  rw [if_neg (by omega)] at hstep
  refine runHandler_step (by simp [hp]) (waits_false hp (by simp))
    ((phaseStep_mode hf hp).trans hstep) ?_
  refine (runHandler_tx hf ?pc hne ?count ?acc ?rd (by omega)).trans (by simp)
  case pc => simp [hp]
  case count => simpa using hc
  case acc => simp [accepts, he, hr]
  case rd => simpa using hm

/-- What every phase of a handler keeps holds at the end of its run. -/
theorem runHandler_keeps {P : State → Prop}
    (phase : ∀ {s t : State}, P s → s.pc ≠ .idle → phaseStep s = .next t → P t) {n : Nat}
    {s t : State} (hs : P s) (h : runHandler n s = .next t) : P t := by
  induction n generalizing s with
  | zero => simp at h; exact h ▸ hs
  | succ n ih =>
    unfold runHandler at h
    split at h
    · simp at h; exact h ▸ hs
    · next hne =>
      split at h
      · simp at h; exact h ▸ hs
      · obtain ⟨u, hu, ht⟩ := andThen_eq_next.1 h
        exact ih (phase hs hne hu) ht

/-- A relation that every phase respects holds from the start of a run to its end. -/
theorem runHandler_rel {R : State → State → Prop} (refl : ∀ s, R s s)
    (trans : ∀ {s t u}, R s t → R t u → R s u) (phase : ∀ {s t}, phaseStep s = .next t → R s t) :
    ∀ {n : Nat} {s t : State}, runHandler n s = .next t → R s t := by
  intro n
  induction n with
  | zero => intro s t h; simp at h; exact h ▸ refl s
  | succ n ih =>
    intro s t h
    rcases runHandler_eq_next h with rfl | ⟨u, hu, ht⟩
    · exact refl _
    · exact trans (phase hu) (ih ht)

/-- Every meaning is the run of its handler from DISPATCH on. -/
theorem exec_eq_run (i : Instr) (s : State) : exec i s = runHandler handlerFuel (dispatch i s) := by
  cases i <;> rfl

/-- One command of the core is its phases, the fetch step among them. -/
theorem runCommand_eq (s : State) :
    runCommand s = if s.pc = .idle then andThen (phaseStep s) (runHandler handlerFuel)
      else runHandler handlerFuel s := by
  unfold runCommand
  split
  · next h =>
    have hp : phaseStep s = fetchPhase s := by simp [phaseStep, h]
    rw [hp]
    unfold fetchPhase
    cases hf : fetchOpcode s with
    | none => simp [runHandler_idle _ h]
    | some u => exact exec_eq_run (fetchedInstr u) u
  · rfl

/-- A relation that every phase and every move outside the core respects, and that does not see the
agenda, holds across a step. -/
theorem step_rel {R : State → State → Prop} (refl : ∀ s, R s s)
    (trans : ∀ {s t u}, R s t → R t u → R s u) (phase : ∀ {s t}, phaseStep s = .next t → R s t)
    (agenda : ∀ s l, R s { s with agenda := l }) (host : ∀ b k s, R s (hostDrives b k s))
    (shift : ∀ s, R s (channelShifts s)) (ready : ∀ r s, R s (txReadyIs r s))
    {s t : State} (h : step s = .next t) : R s t := by
  unfold step at h
  split at h
  · rw [runCommand_eq] at h
    split at h
    · obtain ⟨u, hu, ht⟩ := andThen_eq_next.1 h
      exact trans (phase hu) (runHandler_rel refl trans phase ht)
    · exact runHandler_rel refl trans phase h
  · next m rest _ =>
    refine trans (agenda s rest) ?_
    cases m with
    | corePhase => exact phase h
    | hostDrives b k => simp only [perform, Host.Outcome.next.injEq] at h; exact h ▸ host b k _
    | channelShifts => simp only [perform, Host.Outcome.next.injEq] at h; exact h ▸ shift _
    | txReadyIs r => simp only [perform, Host.Outcome.next.injEq] at h; exact h ▸ ready r _

/-- The phase table, taken apart once: every completed core step is the step of one of its rows. -/
theorem phaseStep_cases {s t : State} (h : phaseStep s = .next t) :
    (s.pc = .idle ∧ fetchPhase s = .next t) ∨
    (s.pc = ⟨.respondingProbe, .build⟩ ∧ probeBuild s = .next t) ∨
    (s.pc = ⟨.respondingProbe, .delay⟩ ∧ probeDelay s = .next t) ∨
    (s.pc = ⟨.respondingOrigin, .build⟩ ∧ originBuild s = .next t) ∨
    (s.pc = ⟨.respondingPoll, .pay0⟩ ∧ payloadPhase .pay1 s = .next t) ∨
    (s.pc = ⟨.respondingPoll, .pay1⟩ ∧ payloadPhase .time s = .next t) ∨
    (s.pc = ⟨.respondingPoll, .time⟩ ∧ pollTime s = .next t) ∨
    (s.pc = ⟨.respondingPoll, .lookup⟩ ∧ pollLookup s = .next t) ∨
    (s.pc = ⟨.respondingPoll, .build⟩ ∧ pollBuild s = .next t) ∨
    (s.pc = ⟨.recovering, .disable⟩ ∧ recoverDisable s = .next t) ∨
    (s.pc = ⟨.recovering, .settle⟩ ∧ recoverSettle s = .next t) ∨
    (s.pc = ⟨.recovering, .init⟩ ∧ recoverInit s = .next t) ∨
    (s.pc = ⟨.recovering, .enable⟩ ∧ recoverEnable s = .next t) ∨
    (∃ f : Fsm, f.responding ∧
      ((s.pc = ⟨f, .mode⟩ ∧ modePhase s = .next t) ∨ (s.pc = ⟨f, .tx⟩ ∧ txPhase s = .next t))) := by
  unfold phaseStep at h
  split at h <;> simp_all [Fsm.responding]

/-- The pc that DISPATCH sets for an instruction. -/
def entryPc : Instr → Pc
  | .probe => ⟨.respondingProbe, .build⟩
  | .origin => ⟨.respondingOrigin, .build⟩
  | .poll _ _ => ⟨.respondingPoll, .pay0⟩
  | .recover _ => ⟨.recovering, .disable⟩

/-- The pc that DISPATCH sets, by the value of the opcode. -/
theorem entryPc_selects (b : Byte) (following : List Byte) :
    entryPc (selects b following) =
      if b = 0x00 then ⟨.respondingProbe, .build⟩
      else if b = 0x41 then ⟨.respondingOrigin, .build⟩
      else if b = 0x40 then ⟨.respondingPoll, .pay0⟩
      else ⟨.recovering, .disable⟩ := by
  unfold selects
  simp only [apply_ite entryPc]
  rfl

/-- All that one completed core step can do, with the next state written out. -/
inductive PhaseEffect (s : State) : State → Prop where
  | wait (h : waits s = true) : PhaseEffect s s
  | fetch (b : Byte) (rest : List Byte) (hp : s.pc = .idle) (hr : s.chan.rx = b :: rest) :
      PhaseEffect s
        { s with
          pc := entryPc (selects b rest)
          opcode := b
          chan := { s.chan with rx := rest }
          trace := s.trace ++ [.rx b] }
  | probeBuild (hp : s.pc = ⟨.respondingProbe, .build⟩) :
      PhaseEffect s
        { s with
          pc := ⟨.respondingProbe, .delay⟩
          resp := memWrite s.resp 0 probePayload
          respLen := 3
          words := memWrite s.words 0 (symbolEncode probePayload)
          wordCount := 2 }
  | probeDelay (hp : s.pc = ⟨.respondingProbe, .delay⟩) :
      PhaseEffect s
        { s with
          pc := ⟨.respondingProbe, .mode⟩
          trace := s.trace ++ [.wait s.params.probeDelayUs] }
  | originBuild (hp : s.pc = ⟨.respondingOrigin, .build⟩) :
      PhaseEffect s
        { s with
          pc := ⟨.respondingOrigin, .mode⟩
          resp := memWrite s.resp 0 originPayload
          respLen := 10
          words := memWrite s.words 0 (symbolEncode originPayload)
          wordCount := 6 }
  | payload (b : Byte) (rest : List Byte) (p : Phase) (hr : s.chan.rx = b :: rest)
      (hp : s.pc = ⟨.respondingPoll, .pay0⟩ ∧ p = .pay1 ∨ s.pc = ⟨.respondingPoll, .pay1⟩ ∧ p = .time) :
      PhaseEffect s
        { s with
          pc := ⟨.respondingPoll, p⟩
          chan := { s.chan with rx := rest }
          trace := s.trace ++ [.rx b] }
  | firstTime (hp : s.pc = ⟨.respondingPoll, .time⟩) (hv : s.anchorValid = false) :
      PhaseEffect s
        { dropReading s with
          pc := ⟨.respondingPoll, .lookup⟩
          nowR := nextReading s
          anchor := nextReading s
          anchorValid := true
          frameR := 0
          trace := s.trace ++ [.now (nextReading s)] }
  | laterTime (hp : s.pc = ⟨.respondingPoll, .time⟩) (hv : s.anchorValid = true)
      (hle : s.anchor ≤ nextReading s) :
      PhaseEffect s
        { dropReading s with
          pc := ⟨.respondingPoll, .lookup⟩
          nowR := nextReading s
          frameR := frameOf (nextReading s - s.anchor)
          trace := s.trace ++ [.now (nextReading s)] }
  | lookup (hp : s.pc = ⟨.respondingPoll, .lookup⟩) :
      PhaseEffect s
        { s with
          pc := ⟨.respondingPoll, .build⟩
          resp := memWrite s.resp 0 (recordBytesOf (rfsFetch s.params.rfs s.frameR))
          respLen := 10
          trace := s.trace ++ [.fetch s.frameR (rfsFetch s.params.rfs s.frameR)] }
  | pollBuild (bs : List Byte) (hp : s.pc = ⟨.respondingPoll, .build⟩)
      (hm : memRead s.resp 0 s.respLen = some bs) (hl : symbolWordCount bs.length ≤ Config.maxWords) :
      PhaseEffect s
        { s with
          pc := ⟨.respondingPoll, .mode⟩
          words := memWrite s.words 0 (symbolEncode bs)
          wordCount := symbolWordCount bs.length }
  | mode (f : Fsm) (hf : f.responding) (hp : s.pc = ⟨f, .mode⟩) (hc : s.wordCount ≠ 0) :
      PhaseEffect s
        { s with
          pc := ⟨f, .tx⟩
          txIdx := 0
          chan := { s.chan with mode := .output }
          trace := s.trace ++ [.mode .output] }
  | write (f : Fsm) (w : SymbolWord) (hf : f.responding) (hp : s.pc = ⟨f, .tx⟩)
      (hi : s.txIdx < s.wordCount) (ha : accepts s.chan = true)
      (hw : Memory.read s.words s.txIdx = some w) :
      PhaseEffect s
        { s with
          pc := if s.txIdx + 1 < s.wordCount then ⟨f, .tx⟩ else .idle
          txIdx := s.txIdx + 1
          chan := { s.chan with tx := s.chan.tx ++ [w] }
          trace := s.trace ++ [.tx w] }
  | nothingToSend (f : Fsm) (hf : f.responding)
      (hp : s.pc = ⟨f, .mode⟩ ∧ s.wordCount = 0 ∨ s.pc = ⟨f, .tx⟩ ∧ ¬ s.txIdx < s.wordCount) :
      PhaseEffect s { s with pc := .idle }
  | disable (hp : s.pc = ⟨.recovering, .disable⟩) :
      PhaseEffect s
        { s with
          pc := ⟨.recovering, .settle⟩
          chan := { s.chan with enabled := false }
          trace := s.trace ++ [.disable] }
  | settle (hp : s.pc = ⟨.recovering, .settle⟩) :
      PhaseEffect s
        { s with
          pc := ⟨.recovering, .init⟩
          trace := s.trace ++ [.wait s.params.recoverSettleUs] }
  | init (hp : s.pc = ⟨.recovering, .init⟩) :
      PhaseEffect s
        { s with
          pc := ⟨.recovering, .enable⟩
          chan := (scInit .input s).chan
          trace := s.trace ++ [.init .input] }
  | enable (hp : s.pc = ⟨.recovering, .enable⟩) :
      PhaseEffect s
        { s with
          pc := .idle
          chan := { s.chan with enabled := true }
          trace := s.trace ++ [.enable] }

/-- Every completed core step is one of those effects. -/
theorem phaseStep_effect {s t : State} (h : phaseStep s = .next t) : PhaseEffect s t := by
  rcases phaseStep_cases h with ⟨hp, h⟩ | ⟨hp, h⟩ | ⟨hp, h⟩ | ⟨hp, h⟩ | ⟨hp, h⟩ | ⟨hp, h⟩ | ⟨hp, h⟩ |
    ⟨hp, h⟩ | ⟨hp, h⟩ | ⟨hp, h⟩ | ⟨hp, h⟩ | ⟨hp, h⟩ | ⟨hp, h⟩ | ⟨f, hf, ⟨hp, h⟩ | ⟨hp, h⟩⟩
  · rw [fetchPhase_eq] at h
    split at h <;> injection h with h <;> subst h
    · next hr => exact .wait (by simp [waits, reading, hp, hr])
    · next b rest hr =>
      rw [dispatch_eq]
      have := PhaseEffect.fetch b rest hp hr
      cases hs : selects b rest <;> rw [hs] at this <;> exact this
  · rw [probeBuild_eq, hp] at h; injection h with h; exact h ▸ .probeBuild hp
  · rw [probeDelay_eq, hp] at h; injection h with h; exact h ▸ .probeDelay hp
  · rw [originBuild_eq, hp] at h; injection h with h; exact h ▸ .originBuild hp
  · rw [payloadPhase_eq, hp] at h
    split at h <;> injection h with h
    · next hr => exact h ▸ .wait (by simp [waits, reading, hp, hr])
    · next hr => exact h ▸ .payload _ _ _ hr (.inl ⟨hp, rfl⟩)
  · rw [payloadPhase_eq, hp] at h
    split at h <;> injection h with h
    · next hr => exact h ▸ .wait (by simp [waits, reading, hp, hr])
    · next hr => exact h ▸ .payload _ _ _ hr (.inr ⟨hp, rfl⟩)
  · rcases pollTime_eq_next.1 h with ⟨hv, h⟩ | ⟨hv, hle, h⟩ <;> rw [hp] at h
    · exact h ▸ .firstTime hp hv
    · exact h ▸ .laterTime hp hv hle
  · rw [pollLookup_eq, hp] at h; injection h with h; exact h ▸ .lookup hp
  · obtain ⟨bs, hm, hl, h⟩ := pollBuild_eq_next.1 h
    rw [hp] at h; exact h ▸ .pollBuild bs hp hm hl
  · rw [recoverDisable_eq, hp] at h; injection h with h; exact h ▸ .disable hp
  · rw [recoverSettle_eq, hp] at h; injection h with h; exact h ▸ .settle hp
  · rw [recoverInit_eq, hp] at h; injection h with h; exact h ▸ .init hp
  · rw [recoverEnable_eq] at h; injection h with h; exact h ▸ .enable hp
  · rw [modePhase_eq, hp] at h
    split at h <;> injection h with h
    · next hc => exact h ▸ .nothingToSend f hf (.inl ⟨hp, hc⟩)
    · next hc => exact h ▸ .mode f hf hp hc
  · rcases txPhase_eq_next.1 h with ⟨hi, ha, w, hw, h⟩ | ⟨hi, ha, _, h⟩ | ⟨hi, h⟩
    · rw [hp] at h; exact h ▸ .write f w hf hp hi ha hw
    · subst h; exact .wait (by simp [waits, hp, hi, ha])
    · exact h ▸ .nothingToSend f hf (.inr ⟨hp, hi⟩)

end Sys2Proof.Machine
end

