-- ==== Sys2Proof/Laws/PerInstr.lean ====
section
/-! SUPPORT. Facts said of every instruction as syntax, one lemma a constructor. -/

namespace Sys2Proof.Laws.FrameLength

/-- The opcode byte of a well-formed frame tells how many bytes the frame has (R71). -/
def Statement (i : Instr) : Prop :=
  i.wellFormed = true → ∃ b rest, encode i = b :: rest ∧ (encode i).length = frameLength b

theorem probe : Statement .probe := fun _ => ⟨_, _, rfl, rfl⟩

theorem origin : Statement .origin := fun _ => ⟨_, _, rfl, rfl⟩

theorem poll (pay0 pay1 : Byte) : Statement (.poll pay0 pay1) := fun _ => ⟨_, _, rfl, rfl⟩

theorem recover (op : Byte) : Statement (.recover op) := by
  intro h
  have hne : op ≠ Config.opcPoll := by
    rintro rfl
    simp [Instr.wellFormed, recognised] at h
  exact ⟨op, [], rfl, by simp [encode, frameLength, hne]⟩

end Sys2Proof.Laws.FrameLength
end

