-- ==== Sys2Proof/Laws/SymbolEncoder.lean ====
section
/-! SUPPORT. The Symbol Encoder and the bits on the line: what each function holds at each index. -/

namespace Sys2Proof.Machine

theorem symbolEncode_getElem? {s : List Byte} {k : Nat} (h : k < symbolWordCount s.length) :
    (symbolEncode s)[k]? = some (symbolWord s k) := by
  simp [symbolEncode, h]

/-- A word of the encoding stands at an index below the word count and is the word of that index. -/
theorem symbolEncode_getElem?_eq {s : List Byte} {k : Nat} {w : SymbolWord}
    (h : (symbolEncode s)[k]? = some w) : k < symbolWordCount s.length ∧ w = symbolWord s k := by
  have hk : k < (symbolEncode s).length := (List.getElem?_eq_some_iff.1 h).1
  rw [symbolEncode_length] at hk
  rw [symbolEncode_getElem? hk, Option.some.injEq] at h
  exact ⟨hk, h.symm⟩

/-- Byte `i` of a response, and the end marker after its last byte, lie in a word of the encoding. -/
theorem symbolWordCount_covers {n i : Nat} (h0 : n ≠ 0) (h : i ≤ n) : i / 2 < symbolWordCount n := by
  simp only [symbolWordCount, if_neg h0]; omega

theorem symbolWord_getLsbD (s : List Byte) (k : Nat) {p : Nat} (h : p < 32) :
    (symbolWord s k).getLsbD p = symbolBit s k p := by
  simp [symbolWord, h]

@[simp] theorem wordBits_length (w : SymbolWord) : (wordBits w).length = 32 := by simp [wordBits]

theorem wordBits_getElem? (w : SymbolWord) {k : Nat} (hk : k < 32) :
    (wordBits w)[k]? = some (w.getLsbD k) := by
  simp only [wordBits, List.getElem?_map, List.getElem?_range hk, Option.map_some]

theorem endsFrame_iff (w : SymbolWord) : endsFrame w = true ↔ w.getLsbD 31 = false := by
  unfold endsFrame; rw [Bool.not_eq_true']

@[simp] theorem frameBits_nil : frameBits [] = [] := rfl

@[simp] theorem frameBits_cons (w : SymbolWord) (ws : List SymbolWord) :
    frameBits (w :: ws) = wordBits w ++ frameBits ws := by
  simp [frameBits]

@[simp] theorem frameBits_append (ws vs : List SymbolWord) :
    frameBits (ws ++ vs) = frameBits ws ++ frameBits vs := by
  simp [frameBits]

end Sys2Proof.Machine
end

