-- ==== Sys2Proof/Tests/Slice0.lean ====
section
/-! SUPPORT. Tests of the model against the spec's own tables and vectors (95_test_vectors.md), and for
every obligation with hypotheses a concrete state and operands that meet them. -/

open Sys2Proof Sys2Proof.Machine

namespace Sys2Proof.Tests

/-! ## WellFormed: ill-formed terms are refused (R74) -/

theorem test_wellFormed_refuses_recover_probe : (Instr.recover 0x00).wellFormed = false := by decide

theorem test_wellFormed_refuses_recover_origin : (Instr.recover 0x41).wellFormed = false := by decide

theorem test_wellFormed_refuses_recover_poll : (Instr.recover 0x40).wellFormed = false := by decide

theorem test_wellFormed_admits_neighbours :
    [0x01, 0x3F, 0x42, 0x43, 0x60, 0x80, 0xC0, 0xC1, 0x02, 0x82, 0x09, 0xFF].all
      (fun b => (Instr.recover b).wellFormed) = true := by decide

/-! ## Decoding: words written out from the opcode map (30_encoding.md, R73) -/

theorem test_decode_probe : decodeTableWord 8 0b00000000 = some .probe := by decide

theorem test_decode_origin : decodeTableWord 8 0b01000001 = some .origin := by decide

/-- Byte 0 is the opcode, byte 1 (bits 15:8) pay0 = 3, byte 2 (bits 23:16) pay1 = 0x80. -/
theorem test_decode_poll : decodeTableWord 24 0b100000000000001101000000 = some (.poll 3 0x80) := by
  decide

/-- The table gives Poll's payload no bits where `nbits` is 8: they are 0. -/
theorem test_decode_poll_short_row : decodeTableWord 8 0b01000000 = some (.poll 0 0) := by decide

/-- The smallest value of each of the seven patterns of R74. -/
theorem test_decode_recover :
    [0x80, 0x20, 0x10, 0x08, 0x04, 0x02, 0x01].map (decodeTableWord 8) =
      [some (.recover 0x80), some (.recover 0x20), some (.recover 0x10), some (.recover 0x08),
        some (.recover 0x04), some (.recover 0x02), some (.recover 0x01)] := by decide

theorem test_decode_rejects_by_name :
    decode [] = .rejected .noByte ∧ decode [0x40, 0x07] = .rejected (.payloadMissing 1) := by decide

/-! ## Symbol Encoder: vectors of 95_test_vectors.md 2.2 -/

theorem test_spread :
    [0x00, 0x01, 0x02, 0x0E, 0x12, 0x3B, 0x7F, 0x80, 0xA5, 0xFE].map spread =
      [0xAAAA, 0xEAAA, 0xBAAA, 0xBFAA, 0xBAEA, 0xFBFA, 0xFFFE, 0xAAAB, 0xEEBB, 0xBFFF] := by
  decide +kernel

theorem test_encode_odd : symbolEncode [0xDE, 0xAD, 0xBE] = [0xEFBBBFEF, 0x0003BFFB] := by
  decide +kernel

theorem test_encode_even :
    symbolEncode [0xDE, 0xAD, 0xBE, 0xEF] = [0xEFBBBFEF, 0xFFBFBFFB, 0x00000003] := by
  decide +kernel

theorem test_encode_ends : symbolEncode [] = [] ∧ symbolEncode [0x80] = [0x0003AAAB] ∧
    symbolEncode [0x80, 0x01] = [0xEAAAAAAB, 0x00000003] := by decide +kernel

theorem test_decode_words : symbolDecode 3 [0xAEFABAEA, 0x0003BEEE] = [0x12, 0x34, 0x56] := by
  decide +kernel

/-! ## Frame function: vectors of 95_test_vectors.md 2.3 -/

theorem test_frameOf :
    [0, 16683, 16684, 33366, 33367, 984317, 984318, 1000000, 49999999, 50000000, 1050000000,
      86400000000, 9007199254740992, 18446744073709551615].map frameOf =
    [0, 0, 1, 1, 2, 58, 59, 59, 2996, 2997, 62937, 5178816, 539891523329, 1105697839778150] := by
  decide +kernel

/-! ## States to run on -/

/-- The record of 95_test_vectors.md 2.5. -/
def record0 : Record := #v[0x13, 0x82, 0x00, 0xFF, 0x7F, 0x81, 0x20, 0xE0, 0x00, 0x00]

/-- A second record, for frame 1. -/
def record1 : Record := #v[0x01, 0x80, 0x80, 0x80, 0x80, 0x80, 0x00, 0x00, 0x00, 0x00]

def benchParams : Params :=
  { probeDelayUs := 300, recoverSettleUs := 400, scFlushOnInit := false, txFlushOnInit := false,
    nFrames := 2, rfs := defaultRfs [record0, record1] }

def benchCfg : ChanCfg := { clkdiv := 5, rest := 0 }

/-- Just after power-up, with the bytes `rx` received and the readings `times` to come. -/
def bench (rx : List Byte) (times : List TimeUs) : State :=
  { State.powerUp benchParams benchCfg with
    chan := { Channel.afterBringUp benchCfg with rx := rx }
    nowIn := times }

/-- The same with the anchor set. -/
def anchored (a : TimeUs) (rx : List Byte) (times : List TimeUs) : State :=
  { bench rx times with anchor := a, anchorValid := true, trace := [.now a] }

/-- At the pc `p`. -/
def benchAt (p : Pc) (rx : List Byte) (times : List TimeUs) : State := { bench rx times with pc := p }

/-- What a test looks at in an outcome. -/
def viewed {α : Type} (f : State → α) (x : StepResult) : Option α :=
  match x with
  | .next s => some (f s)
  | .fault _ => none
  | .refused _ => none

/-! ## One step each: whole commands of 95_test_vectors.md 2.5 -/

theorem test_step_probe :
    viewed (fun t => (t.pc, t.trace)) (step (bench [0x00] [])) = some (.idle,
      [.rx 0x00, .wait 300, .mode .output, .tx 0xAAAAEBAA, .tx 0x0003FAAA]) := by decide +kernel

theorem test_step_origin :
    viewed (fun t => (t.pc, t.trace)) (step (bench [0x41] [])) = some (.idle,
      [.rx 0x41, .mode .output, .tx 0xAAABAAAA, .tx 0xAAABAAAB, .tx 0xAAABAAAB, .tx 0xAAAAAAAA,
        .tx 0xAAAAAAAA, .tx 0x00000003]) := by decide +kernel

theorem test_step_first_poll :
    viewed (fun t => (t.trace, t.anchorValid, t.anchor)) (step (bench [0x40, 0xAB, 0xCD] [777])) = some (
      [.rx 0x40, .rx 0xAB, .rx 0xCD, .now 777, .fetch 0 record0, .mode .output, .tx 0xBAABFAEA,
        .tx 0xFFFFAAAA, .tx 0xEAABFFFE, .tx 0xAABFAABA, .tx 0xAAAAAAAA, .tx 0x00000003], true, 777) := by
  decide +kernel

/-- d = 33,367 gives frame 2, which is at N_FRAMES here: the neutral record. The payload 0xFF is not
dispatched. -/
theorem test_step_later_poll :
    viewed (fun t => (t.trace.drop 5, t.anchor)) (step (anchored 777 [0x40, 0xFF, 0xFF] [34144])) = some (
      [.fetch 2 neutralRecord, .mode .output, .tx 0xAAABAAAA, .tx 0xAAABAAAB, .tx 0xAAABAAAB,
        .tx 0xAAAAAAAA, .tx 0xAAAAAAAA, .tx 0x00000003], 777) := by decide +kernel

theorem test_step_recover :
    viewed (fun t => (t.pc, t.trace, t.anchorValid)) (step (bench [0x7E] [])) = some (.idle,
      [.rx 0x7E, .disable, .wait 400, .init .input, .enable], false) := by decide +kernel

theorem test_step_recover_keeps_anchor :
    viewed (fun t => (t.anchorValid, t.anchor)) (step (anchored 5000000 [0xFF] [])) =
      some (true, 5000000) := by decide +kernel

/-- 2.4, last row: a reading before the anchor is refused. -/
theorem test_step_time_before_anchor :
    step (anchored 5000000 [0x40, 0x00, 0x00] [4999999]) = .refused .timeBeforeAnchor := by
  rfl

/-- A stored table word is the next command that runs. -/
theorem test_withFetchWord :
    viewed (fun t => t.trace) (step ((bench [0x41] []).withFetchWord 8 0x00)) = some
      [.rx 0x00, .wait 300, .mode .output, .tx 0xAAAAEBAA, .tx 0x0003FAAA] := by decide +kernel

/-- The first instruction after reset, whatever the parameters are: each command ends at the fetch step. -/
theorem test_first_after_reset :
    [(8, 0x00), (8, 0x41), (24, 0x40), (8, 0x80), (8, 0x01)].map
        (fun c => viewed (fun t => (t.pc, t.opcode)) (step (State.reset.withFetchWord c.1 c.2))) =
      [some (.idle, 0x00), some (.idle, 0x41), some (.idle, 0x40), some (.idle, 0x80),
        some (.idle, 0x01)] := by rfl

theorem test_reset_stores_canonical :
    Memory.wf State.reset.resp = true ∧ Memory.wf State.reset.words = true := ⟨rfl, rfl⟩

/-! ## Witnesses: the hypotheses of each obligation can be met -/

theorem witness_DecodeOfEncodedFrame :
    Instr.probe.wellFormed = true ∧ Instr.origin.wellFormed = true ∧
    (Instr.poll 0xFF 0xFF).wellFormed = true ∧ (Instr.recover 0x3F).wellFormed = true ∧
    (Instr.recover 0x42).wellFormed = true := by decide

theorem witness_EncodeOfDecodedFrame :
    decode [0x40, 0x03, 0x00, 0x41] = .frame (.poll 3 0) [0x41] := by decide

/-- One witness for each of the four outcomes, the last at the bytes next to a recognised one. -/
theorem witness_DispatchByOpcodeValue :
    ∀ b ∈ [(0x00 : Byte), 0x41, 0x40, 0x01, 0x3F, 0x42],
      (bench [b] []).pc = .idle ∧ (bench [b] []).chan.rx = b :: [] := by
  decide

theorem witness_StepRunsTheDecodedFrame :
    (bench [0x40, 0x03, 0x00] [9]).pc = .idle ∧ (bench [0x40, 0x03, 0x00] [9]).agenda = [] ∧
    (bench [0x40, 0x03, 0x00] [9]).chan.rx = 0x40 :: [0x03, 0x00] ∧
    decode (0x40 :: [0x03, 0x00]) = .frame (.poll 3 0) [] := by decide

/-- The three places at which the core waits for the host. -/
theorem witness_SilentHostLeavesTheStateAsItIs :
    ∀ p ∈ [Pc.idle, ⟨.respondingPoll, .pay0⟩, ⟨.respondingPoll, .pay1⟩],
      (benchAt p [] []).agenda = [] ∧ (benchAt p [] []).chan.rx = [] ∧ (benchAt p [] []).pc = p := by
  decide

theorem witness_ProbeAnswersItsTwoWords :
    (bench [] []).chan.enabled = true ∧ (bench [] []).chan.txReady = true := by decide

theorem witness_OriginAnswersItsSixWords :
    (bench [] []).chan.enabled = true ∧ (bench [] []).chan.txReady = true := by decide

theorem witness_FirstPollReportsFrameZero :
    ∃ (s : State) (t : TimeUs) (r : Record) (ws : List SymbolWord),
      s.chan.enabled = true ∧ s.chan.txReady = true ∧ s.chan.rx = 0xAB :: 0xCD :: [] ∧
      s.anchorValid = false ∧ t = nextReading s ∧ r = rfsFetch s.params.rfs 0 ∧
      ws = symbolEncode (recordBytesOf r) :=
  ⟨bench [0xAB, 0xCD] [777], _, _, _, rfl, rfl, rfl, rfl, rfl, rfl, rfl⟩

/-- At a frame boundary: 16,684 µs after the anchor is the first microsecond of frame 1. -/
theorem witness_LaterPollReportsTheElapsedFrame :
    ∃ (s : State) (t : TimeUs) (f : FrameIdx) (r : Record) (ws : List SymbolWord),
      s.chan.enabled = true ∧ s.chan.txReady = true ∧ s.chan.rx = 0xFF :: 0xFF :: [] ∧
      s.anchorValid = true ∧ t = nextReading s ∧ s.anchor ≤ t ∧
      f.toNat = (t.toNat - s.anchor.toNat) * 2997 / 50000000 ∧ f = 1 ∧ r = rfsFetch s.params.rfs f ∧
      ws = symbolEncode (recordBytesOf r) :=
  ⟨anchored 777 [0xFF, 0xFF] [17461], 17461, 1, _, _, by decide, by decide, by decide, by decide,
    by decide, by decide, by decide, rfl, rfl, rfl⟩

/-- The neighbours of the recognised opcodes. -/
theorem witness_RecoverReinitialisesTheChannel :
    ∀ op ∈ [(0x01 : Byte), 0x3F, 0x42, 0xFF], op ≠ 0x00 ∧ op ≠ 0x40 ∧ op ≠ 0x41 := by decide

theorem witness_PollWaitsForItsPayload :
    (bench [] []).chan.rx = [] ∧ (bench [0x07] []).chan.rx = [0x07] := by decide

theorem witness_ReadingBeforeTheAnchorIsRefused :
    (anchored 5000000 [0x00, 0x00] [4999999]).chan.rx = 0x00 :: 0x00 :: [] ∧
    (anchored 5000000 [0x00, 0x00] [4999999]).anchorValid = true ∧
    nextReading (anchored 5000000 [0x00, 0x00] [4999999]) <
      (anchored 5000000 [0x00, 0x00] [4999999]).anchor := by decide

/-- The channel accepts no word. -/
def notReady : State := txReadyIs false (bench [] [])

/-- PROBE and ORIGIN from any such state; a POLL with its payload, before the anchor is set and with a
reading equal to it. -/
theorem witness_ResponseResumesWhereItWaited :
    (notReady.chan.enabled = true ∧ notReady.chan.txReady = false ∧ notReady.agenda = []) ∧
    (∃ s : State, s.chan.enabled = true ∧ s.chan.txReady = false ∧ s.agenda = [] ∧
      s.chan.rx = 0x01 :: 0x02 :: [] ∧ s.anchorValid = false) ∧
    ∃ s : State, s.chan.enabled = true ∧ s.chan.txReady = false ∧ s.agenda = [] ∧
      s.chan.rx = 0x01 :: 0x02 :: [] ∧ s.anchorValid = true ∧ s.anchor ≤ nextReading s :=
  ⟨by decide, ⟨txReadyIs false (bench [0x01, 0x02] [5]), by decide⟩,
    txReadyIs false (anchored 5 [0x01, 0x02] [5]), by decide⟩

/-- A Probe response stopped before the word `n`. -/
def stoppedAt (n : Nat) : State :=
  { bench [] [] with
    pc := ⟨.respondingProbe, .tx⟩
    words := [(0, 0xAAAAEBAA), (1, 0x0003FAAA)]
    wordCount := 2
    txIdx := n
    chan := { Channel.afterBringUp benchCfg with mode := .output } }

/-- Stopped before the first word and before the last. -/
theorem witness_ResponseResumesAtTheNextWord :
    ((stoppedAt 0).agenda = [] ∧ (stoppedAt 0).chan.enabled = true ∧ (stoppedAt 0).chan.mode = .output ∧
      (stoppedAt 0).wordCount ≤ Config.maxWords ∧ (stoppedAt 0).txIdx < (stoppedAt 0).wordCount ∧
      ∀ k < 2, Memory.read (stoppedAt 0).words (0 + k) = [(0xAAAAEBAA : SymbolWord), 0x0003FAAA][k]?) ∧
    ((stoppedAt 1).agenda = [] ∧ (stoppedAt 1).chan.enabled = true ∧ (stoppedAt 1).chan.mode = .output ∧
      (stoppedAt 1).wordCount ≤ Config.maxWords ∧ (stoppedAt 1).txIdx < (stoppedAt 1).wordCount ∧
      ∀ k < 1, Memory.read (stoppedAt 1).words (1 + k) = [(0x0003FAAA : SymbolWord)][k]?) := by
  decide +kernel

theorem witness_PollResumesWhereItWaited : (bench [] [9]).agenda = [] := rfl

/-- A disabled channel, one in Input mode, and one that is not ready. -/
theorem witness_AnUnacceptedWordIsWaitedFor :
    ∀ c ∈ [(false, ChanMode.output, true), (true, .input, true), (true, .output, false)],
      let s := { benchAt ⟨.respondingOrigin, .tx⟩ [] [] with
        wordCount := 6, txIdx := 5, words := [(5, 3)]
        chan := { Channel.afterBringUp benchCfg with enabled := c.1, mode := c.2.1, txReady := c.2.2 } }
      s.agenda = [] ∧ s.pc.phase = .tx ∧ s.txIdx < s.wordCount ∧ accepts s.chan = false := by
  intro c hc
  simp only [List.mem_cons, List.not_mem_nil, or_false] at hc
  rcases hc with rfl | rfl | rfl <;> decide

theorem witness_ProbeAndOriginFrame :
    (∃ t, exec .probe (bench [] []) = .next t) ∧ (∃ t, exec .origin (bench [] []) = .next t) :=
  ⟨⟨_, rfl⟩, ⟨_, rfl⟩⟩

theorem witness_PollFrame :
    (∃ t, exec (.poll 0 0) (bench [0x01, 0x02] [10]) = .next t) ∧
    ((anchored 10 [0x01, 0x02] [10]).anchorValid = true ∧
      ∃ t, exec (.poll 0 0) (anchored 10 [0x01, 0x02] [10]) = .next t) :=
  ⟨⟨_, rfl⟩, rfl, ⟨_, rfl⟩⟩

theorem witness_RecoverFrame : ∃ t, exec (.recover 0xFF) (bench [] []) = .next t := ⟨_, rfl⟩

/-- Across the first frame boundary, as elapsed times and as the readings of two Polls. -/
theorem witness_FrameOfIsMonotone :
    (16683 : TimeUs) ≤ 16684 ∧
    ∃ s₁ s₂ t₁ t₂ : State, s₁.anchorValid = true ∧ s₂.anchorValid = true ∧ s₁.anchor = s₂.anchor ∧
      nextReading s₁ ≤ nextReading s₂ ∧ pollTime s₁ = .next t₁ ∧ pollTime s₂ = .next t₂ :=
  ⟨by decide, anchored 0 [] [16683], anchored 0 [] [16684], _, _, rfl, rfl, rfl, by decide, rfl, rfl⟩

/-- Both branches; the second at the anchor itself. -/
theorem witness_SyncSetsTheAnchorOnce :
    (bench [] []).anchorValid = false ∧
    ({ anchored 123456789 [] [] with nowR := 123456789 } : State).anchorValid = true ∧
    ({ anchored 123456789 [] [] with nowR := 123456789 } : State).anchor ≤
      ({ anchored 123456789 [] [] with nowR := 123456789 } : State).nowR := by decide

theorem witness_SyncAtTheAnchorReportsZero :
    ({ anchored 123456789 [] [] with nowR := 123456789 } : State).anchorValid = true ∧
    ({ anchored 123456789 [] [] with nowR := 123456789 } : State).nowR =
      ({ anchored 123456789 [] [] with nowR := 123456789 } : State).anchor := by decide

/-- Two states that differ in what was received and agree in anchor and reading. -/
theorem witness_PollFrameDependsOnAnchorAndReadingAlone :
    ∃ s₁ s₂ t₁ t₂ : State, s₁ ≠ s₂ ∧ s₁.anchorValid = true ∧ s₂.anchorValid = true ∧
      s₁.anchor = s₂.anchor ∧ nextReading s₁ = nextReading s₂ ∧ pollTime s₁ = .next t₁ ∧
      pollTime s₂ = .next t₂ :=
  ⟨anchored 5 [] [7], anchored 5 [0x00] [7], _, _, by decide, rfl, rfl, rfl, rfl, rfl, rfl⟩

/-- The last recorded frame and the first index beyond it. -/
theorem witness_ReplayIsNeutralPastItsEnd :
    [record0, record1][(1 : FrameIdx).toNat]? = some record1 ∧
    (loadReplay [record0, record1] benchParams).nFrames ≤ (2 : FrameIdx).toNat := by decide

/-- The first bit of the first byte and the last bit of the last. -/
theorem witness_EncodeDataAndEnableBits :
    ([0x09, 0x00, 0x03] : List Byte)[0]? = some 0x09 ∧
    ([0x09, 0x00, 0x03] : List Byte)[2]? = some 0x03 ∧ 0 < 8 ∧ 7 < 8 := by decide

theorem witness_EncodeEndMarker : ([0x00] : List Byte) ≠ [] ∧ ([0x00, 0x00] : List Byte) ≠ [] := by decide

/-- The lowest padding bit for odd length and for even length. -/
theorem witness_EncodePaddingIsZero :
    ([0x00] : List Byte) ≠ [] ∧ 16 * (([0x00] : List Byte).length % 2) + 1 < 18 ∧
    ([0x00, 0x00] : List Byte) ≠ [] ∧ 16 * (([0x00, 0x00] : List Byte).length % 2) + 1 < 2 := by decide

theorem witness_EncodeStreamForm : ([0x80] : List Byte) ≠ [] := by decide

/-- An even and an odd length, each with a byte and bit in range. -/
theorem witness_DecodingTheWordsGivesTheBytes :
    (1 < ([0x12, 0x34] : List Byte).length ∧ 7 < 8 ∧ symbolEncode [0x12, 0x34] = symbolEncode [0x12, 0x34] ∧
      ([0x12, 0x34] : List Byte) ≠ [] ∧ ([0x12, 0x34] : List Byte).length % 2 = 0) ∧
    (0 < ([0x12] : List Byte).length ∧ 0 < 8 ∧ symbolEncode [0x12] = symbolEncode [0x12] ∧
      ([0x12] : List Byte) ≠ [] ∧ ([0x12] : List Byte).length % 2 = 1) := by decide +kernel

/-- A word inside a frame and the last one; a pair slot without its enable bit. -/
theorem witness_PairSlotsAndFrameEnd :
    (symbolEncode [0x09, 0x00, 0x03])[0]? = some 0xAAAAEBAA ∧
    (symbolEncode [0x09, 0x00, 0x03])[1]? = some 0x0003FAAA ∧
    (0x0003FAAA : SymbolWord).getLsbD (2 * 9 + 1) = false := by decide +kernel

theorem witness_ReadsConsumeAndWritesAppend :
    (bench [0x00, 0x41] []).chan.rx = 0x00 :: [0x41] ∧
    accepts (scSetMode .output (bench [] [])).chan = true := by decide

/-- The two words of a Probe accepted and not yet shifted, the first and then the last of the frame. -/
def sending (ws : List SymbolWord) : State :=
  { bench [] [] with chan := { Channel.afterBringUp benchCfg with mode := .output, tx := ws } }

theorem witness_ChannelShiftsFromBitZero :
    ((sending [0xAAAAEBAA]).chan.enabled = true ∧ (sending [0xAAAAEBAA]).chan.mode = .output ∧
      (sending [0xAAAAEBAA]).chan.tx = 0xAAAAEBAA :: [] ∧
      (0xAAAAEBAA : SymbolWord).getLsbD 31 = true) ∧
    ((sending [0x0003FAAA]).chan.enabled = true ∧ (sending [0x0003FAAA]).chan.mode = .output ∧
      (sending [0x0003FAAA]).chan.tx = 0x0003FAAA :: [] ∧
      (0x0003FAAA : SymbolWord).getLsbD 31 = false) :=
  ⟨⟨rfl, rfl, rfl, by decide⟩, rfl, rfl, rfl, by decide⟩

theorem witness_HostBytesReachAReadingCore :
    ((bench [] []).chan.enabled = true ∧ (bench [] []).chan.mode = .input ∧
      reading (bench [] []) = true) ∧
    (scDisable (bench [] [])).chan.enabled = false := by decide

theorem witness_TrapReturnGoesToListening :
    (benchAt ⟨.recovering, .enable⟩ [] []).pc = ⟨.recovering, .enable⟩ := rfl

theorem witness_OnlyAnUnknownOpcodeEntersRecovering :
    ∃ t, phaseStep (bench [0x42] []) = .next t ∧ t.pc.fsm = .recovering ∧
      (bench [0x42] []).pc.fsm ≠ .recovering := ⟨_, rfl, rfl, by decide⟩

/-- A wait, a repeated `tx` and a phase that moves on. -/
theorem witness_PhasesFollowTheTable :
    (∃ t, phaseStep (bench [] []) = .next t ∧ waits (bench [] []) = true) ∧
    (∃ t, phaseStep (stoppedAt 0) = .next t ∧ t.pc = (stoppedAt 0).pc) ∧
    (∃ t, phaseStep (bench [0x00] []) = .next t ∧ t.pc = ⟨.respondingProbe, .build⟩) :=
  ⟨⟨_, rfl, rfl⟩, ⟨_, rfl, rfl⟩, ⟨_, rfl, rfl⟩⟩

/-- A phase that reads a byte and one that writes a word. -/
theorem witness_HalfDuplexPhases :
    (∃ t, phaseStep (bench [0x00] []) = .next t ∧ readBytes t.trace = [0x00]) ∧
    (∃ t, phaseStep { sending [] with
        pc := ⟨.respondingProbe, .tx⟩, words := [(0, 0x00000003)], wordCount := 1 } = .next t ∧
      writtenWords t.trace = [0x00000003]) :=
  ⟨⟨_, rfl, rfl⟩, ⟨_, rfl, rfl⟩⟩

/-- The state just after power-up meets the invariant; so does one with a byte received and a move
listed. -/
theorem bench_inv (rx : List Byte) (times : List TimeUs) : StateInv (bench rx times) := by
  constructor <;>
    simp [bench, State.powerUp, Channel.afterBringUp, Memory.wf, Pc.legal, Pc.phasesOf, Pc.channelOff]

theorem witness_EveryStepKeepsTheInvariant :
    StateInv (bench [0x41] []) ∧ ∃ t, step (bench [0x41] []) = .next t :=
  ⟨bench_inv _ _, _, rfl⟩

theorem witness_NoStepFaults : StateInv (bench [0x40, 0x00, 0x00] [3]) := bench_inv _ _

theorem witness_TheAnchorIsNeverReset :
    (anchored 5000000 [0xFF] []).anchorValid = true ∧
    ∃ t, step (anchored 5000000 [0xFF] []) = .next t := ⟨rfl, _, rfl⟩

theorem witness_TheAnchorIsTheFirstReading :
    (anchorOf (bench [0x40, 0x00, 0x00] [3]) = firstNow (bench [0x40, 0x00, 0x00] [3]).trace ∧
      ∃ t, step (bench [0x40, 0x00, 0x00] [3]) = .next t) ∧
    (anchorOf (anchored 3 [0x40, 0x00, 0x00] [3]) = firstNow (anchored 3 [0x40, 0x00, 0x00] [3]).trace ∧
      ∃ t, step (anchored 3 [0x40, 0x00, 0x00] [3]) = .next t) :=
  ⟨⟨rfl, _, rfl⟩, ⟨rfl, _, rfl⟩⟩

theorem witness_ParametersAndPastEventsAreKept : ∃ t, step (bench [0x00] []) = .next t := ⟨_, rfl⟩

theorem witness_WordsLeaveInTheOrderWritten :
    (bench [0x00] []).params.txFlushOnInit = false ∧
    (bench [0x00] []).chan.line ++ frameBits (bench [0x00] []).chan.tx =
      frameBits (writtenWords (bench [0x00] []).trace) ∧
    ∃ t, step (bench [0x00] []) = .next t := ⟨rfl, rfl, _, rfl⟩

/-- A command that ends at the fetch step and one that has to wait. -/
theorem witness_StepIsARunOfCoreSteps :
    ((bench [0x00] []).agenda = [] ∧ waits (bench [0x00] []) = false ∧ StateInv (bench [0x00] []) ∧
      ∃ t, step (bench [0x00] []) = .next t) ∧
    ((bench [0x40] []).agenda = [] ∧ StateInv (bench [0x40] []) ∧
      ∃ t, step (bench [0x40] []) = .next t ∧ t.pc ≠ .idle) :=
  ⟨⟨rfl, rfl, bench_inv _ _, _, rfl⟩, rfl, bench_inv _ _, _, rfl, by decide⟩

/-- Two states that differ in per-command registers and in an unset anchor. -/
theorem witness_DeadRegistersDoNotMatter :
    SameLive (bench [0x41] []) { bench [0x41] [] with frameR := 9, anchor := 4, words := [(0, 1)] } ∧
    bench [0x41] [] ≠ { bench [0x41] [] with frameR := 9, anchor := 4, words := [(0, 1)] } ∧
    (bench [0x41] []).pc = .idle ∧ (bench [0x41] []).agenda = [] ∧
    ∃ t, step (bench [0x41] []) = .next t :=
  ⟨⟨rfl, rfl, (fun h => nomatch h), rfl, rfl, rfl, rfl, rfl, rfl, rfl⟩, by decide, rfl, rfl, _, rfl⟩

theorem witness_RecoveryIsInvisibleToThePoll :
    (anchored 5 [0x00, 0x00] [9]).params.scFlushOnInit = false ∧
    (anchored 5 [0x00, 0x00] [9]).chan.enabled = true ∧
    (∃ u, exec (.recover 0xFF) (anchored 5 [0x00, 0x00] [9]) = .next u) ∧
    ∃ v, exec (.poll 0 0) (anchored 5 [0x00, 0x00] [9]) = .next v :=
  ⟨rfl, rfl, ⟨_, rfl⟩, ⟨_, rfl⟩⟩

/-- The script `00 FF` received where re-initialisation drops accepted words. -/
def dropping : State :=
  { bench [0x00, 0xFF] [] with params := { benchParams with txFlushOnInit := true } }

/-- That script handled by the core while the channel shifts nothing. -/
def droppedWords : State :=
  (viewed id (step ((viewed id (step dropping)).getD dropping))).getD dropping

/-- Its two words were dropped, not shifted out, so its run is not over (R185). -/
theorem test_runOver_not_for_dropped_words :
    droppedWords.chan.tx = [] ∧ droppedWords.pc = .idle ∧ droppedWords.chan.rx = [] ∧
    droppedWords.chan.mode = .input ∧
    ¬ RunOver [0x00, 0xFF] dropping droppedWords := by
  refine ⟨rfl, rfl, rfl, rfl, fun h => ?_⟩
  obtain ⟨-, ws, written, line⟩ := h.shiftedOut
  have words : writtenWords droppedWords.trace = [0xAAAAEBAA, 0x0003FAAA] := by decide +kernel
  have empty : droppedWords.chan.line = [] := rfl
  obtain rfl : [0xAAAAEBAA, 0x0003FAAA] = ws := words.symm.trans written
  rw [empty] at line
  revert line
  decide +kernel

/-- A whole frame, with an anchor at the reading; an over run; words written and not on the line; the two scripts that end inside a POLL. -/
theorem witness_TheRunOfAScriptEnds :
    ((Instr.poll 0x03 0x00).wellFormed = true ∧
      (anchored 5 [0x40, 0x03, 0x00] [5]).pc = .idle ∧ (anchored 5 [0x40, 0x03, 0x00] [5]).agenda = [] ∧
      (anchored 5 [0x40, 0x03, 0x00] [5]).chan.rx = encode (.poll 0x03 0x00) ∧
      (anchored 5 [0x40, 0x03, 0x00] [5]).chan.tx = [] ∧
      (anchored 5 [0x40, 0x03, 0x00] [5]).chan.mode = .input ∧
      (anchored 5 [0x40, 0x03, 0x00] [5]).chan.enabled = true ∧
      (anchored 5 [0x40, 0x03, 0x00] [5]).chan.txReady = true ∧
      (anchored 5 [0x40, 0x03, 0x00] [5]).anchor ≤ nextReading (anchored 5 [0x40, 0x03, 0x00] [5])) ∧
    (RunOver [] (bench [] []) (bench [] []) ∧ (bench [] []).agenda = []) ∧
    (writtenWords droppedWords.trace = writtenWords dropping.trace ++
        0xAAAAEBAA :: [0x0003FAAA] ∧
      droppedWords.chan.line = dropping.chan.line) ∧
    ((bench [0x40] []).chan.rx = [0x40] ∧ (bench [0x40, 0xFF] []).chan.rx = [0x40, 0xFF]) :=
  ⟨by decide, ⟨⟨rfl, rfl, rfl, ⟨rfl, [], rfl, rfl⟩, rfl⟩, rfl⟩, ⟨by decide +kernel, rfl⟩, rfl, rfl⟩

/-- The execution in which only the core moves. -/
def coreAlone (s : State) : Nat → State
  | 0 => s
  | n + 1 => (viewed id (phaseStep (coreAlone s n))).getD s

/-- A PROBE and then silence: after six steps the core is back at the fetch step and waits for ever. -/
theorem coreAlone_probe_silent (n : Nat) :
    coreAlone (bench [0x00] []) (n + 6) = coreAlone (bench [0x00] []) 6 := by
  induction n with
  | zero => rfl
  | succ n ih =>
    show (viewed id (phaseStep (coreAlone (bench [0x00] []) (n + 6)))).getD _ = _
    rw [ih]; rfl

/-- What holds at the first seven instants of that execution holds at all. -/
theorem coreAlone_probe_all {P : State → Prop} (first : ∀ n < 7, P (coreAlone (bench [0x00] []) n)) (n : Nat) :
    P (coreAlone (bench [0x00] []) n) := by
  by_cases h : n < 6
  · exact first n (by omega)
  · obtain ⟨k, rfl⟩ : ∃ k, n = k + 6 := ⟨n - 6, by omega⟩
    rw [coreAlone_probe_silent]
    exact first 6 (by omega)

/-- An endless execution with a response in it: a PROBE on a ready channel. -/
theorem witness_TheCoreReadsAgain :
    IsExecution (coreAlone (bench [0x00] [])) (fun _ => .corePhase) ∧
    StateInv (coreAlone (bench [0x00] []) 0) ∧ CoreGoesOn (fun _ => .corePhase) ∧
    ChannelIsFair (coreAlone (bench [0x00] [])) (fun _ => .corePhase) ∧
    WritesInOutputMode (coreAlone (bench [0x00] [])) ∧
    (coreAlone (bench [0x00] []) 4).pc.phase = .tx := by
  refine ⟨fun n => ?_, bench_inv _ _, fun n => ⟨n, Nat.le_refl n, rfl⟩, fun n hp _ hm => ?_, fun n => ?_, rfl⟩
  · refine coreAlone_probe_all (P := fun s =>
      phaseStep s = .next ((viewed id (phaseStep s)).getD (bench [0x00] []))) (fun n hn => ?_) n
    interval_cases n <;> rfl
  · refine ⟨n, Nat.le_refl n, rfl, ?_⟩
    have ready := coreAlone_probe_all (P := fun s => s.chan.enabled = true ∧ s.chan.txReady = true)
      (fun n hn => by interval_cases n <;> exact ⟨rfl, rfl⟩) n
    exact (accepts_iff _).2 ⟨ready.1, hm, ready.2⟩
  · refine coreAlone_probe_all (P := fun s => s.pc.phase = .tx → s.chan.mode = .output)
      (fun n hn => ?_) n
    interval_cases n <;> decide

end Sys2Proof.Tests
end

