-- ==== Sys2Proof/Proofs/StepIsARun.lean ====
section
/-! PROOFS. A step with no move listed is a run of core steps, and the fuel of `runHandler` is enough: the
handler ends, or the core waits, before it is used up (R92, log 1). -/

namespace Sys2Proof.Machine

/-! ## Runs at the two grains -/

/-- A core step and then a run of phases is a run of core steps. -/
theorem exists_phaseRun_of_phaseStep {n : Nat} (s : State)
    (rest : ∀ u, ∃ k, phaseRun k u = runHandler n u) :
    ∃ k, phaseRun (k + 1) s = andThen (phaseStep s) (runHandler n) := by
  cases hp : phaseStep s with
  | next u =>
    obtain ⟨k, hk⟩ := rest u
    exact ⟨k, by simp [phaseRun, hp, hk]⟩
  | fault r => exact ⟨0, by simp [phaseRun, hp]⟩
  | refused r => exact ⟨0, by simp [phaseRun, hp]⟩

theorem exists_phaseRun_eq_runHandler (n : Nat) (s : State) : ∃ k, phaseRun k s = runHandler n s := by
  induction n generalizing s with
  | zero => exact ⟨0, rfl⟩
  | succ n ih =>
    by_cases hi : s.pc = .idle
    · exact ⟨0, (runHandler_idle _ hi).symm⟩
    · cases hw : waits s with
      | true => exact ⟨0, (runHandler_waits _ hw).symm⟩
      | false =>
        rw [runHandler_succ n hi hw]
        exact (exists_phaseRun_of_phaseStep s ih).imp' (· + 1) fun _ h => h

/-- Where the core need not wait, a command begins with a core step, also inside a handler. -/
theorem runCommand_of_not_waits {s : State} (hw : waits s = false) :
    ∃ n, runCommand s = andThen (phaseStep s) (runHandler n) := by
  rw [runCommand_eq]
  split
  · exact ⟨_, rfl⟩
  · next hi => exact ⟨_, runHandler_succ (handlerFuel - 1) hi hw⟩

/-- A command begun where the core waits changes nothing (R188, R189). -/
theorem runCommand_waits {s : State} (hw : waits s = true) : runCommand s = .next s := by
  rw [runCommand_eq]
  split
  · next hi =>
    have hr : s.chan.rx = [] := by simpa [waits, reading, hi] using hw
    rw [phaseStep_fetch hi, fetchPhase_eq, hr]
    exact runHandler_waits _ hw
  · exact runHandler_waits _ hw

theorem runCommand_is_phaseRun (s : State) :
    ∃ n, (waits s = false → 0 < n) ∧ phaseRun n s = runCommand s := by
  cases hw : waits s with
  | true => exact ⟨0, by simp, (runCommand_waits hw).symm⟩
  | false =>
    obtain ⟨n, hn⟩ := runCommand_of_not_waits hw
    obtain ⟨k, hk⟩ := exists_phaseRun_of_phaseStep s (exists_phaseRun_eq_runHandler n)
    exact ⟨k + 1, fun _ => k.succ_pos, hk.trans hn.symm⟩

/-! ## The steps a handler has left -/

/-- A bound on the core steps a handler has left: one for each phase that R22's table lists for its state
from the present one on, where the last counts as `MAX_WORDS` steps, or in `tx` itself as one for each word
left to write (R25, R26). -/
def phasesLeft (s : State) : Nat :=
  ((Pc.phasesOf s.pc.fsm).length - 1 - (Pc.phasesOf s.pc.fsm).idxOf s.pc.phase) +
    if s.pc.phase = .tx then max 1 (s.wordCount - s.txIdx) else Config.maxWords

theorem phasesLeft_pos (s : State) : 0 < phasesLeft s := by
  unfold phasesLeft
  split <;> simp

theorem phasesLeft_le_handlerFuel {s : State} (hc : s.wordCount ≤ Config.maxWords) :
    phasesLeft s ≤ handlerFuel := by
  have longest : (Pc.phasesOf s.pc.fsm).length ≤ 7 := by cases s.pc.fsm <;> decide
  have oneWord : 1 ≤ Config.maxWords := by decide
  unfold phasesLeft handlerFuel
  split <;> omega

/-- No core step counts more words than WORDS holds (R25). -/
theorem phaseStep_wordCount_le {s t : State} (h : phaseStep s = .next t)
    (hc : s.wordCount ≤ Config.maxWords) : t.wordCount ≤ Config.maxWords := by
  cases phaseStep_effect h with
  | probeBuild => exact show 2 ≤ Config.maxWords by decide
  | originBuild => exact show 6 ≤ Config.maxWords by decide
  | pollBuild _ _ _ hl => exact hl
  | firstTime | laterTime => simpa using hc
  | _ => exact hc

/-- Every core step of a handler that does not wait ends the handler or leaves it fewer steps. -/
theorem phaseStep_phasesLeft_lt {s t : State} (h : phaseStep s = .next t) (hi : s.pc ≠ .idle)
    (hw : waits s = false) (hc : s.wordCount ≤ Config.maxWords) :
    t.pc = .idle ∨ phasesLeft t < phasesLeft s := by
  cases phaseStep_effect h with
  | wait hw' => simp [hw] at hw'
  | fetch b rest hp => exact absurd hp hi
  | nothingToSend | enable => exact .inl rfl
  | payload b rest p hr hp =>
    right
    obtain ⟨hp, rfl⟩ | ⟨hp, rfl⟩ := hp <;> simp [phasesLeft, hp, Pc.phasesOf]
  | mode f hf hp =>
    right
    obtain rfl | rfl | rfl := hf <;> simp [phasesLeft, hp, Pc.phasesOf] <;> omega
  | write f w hf hp hlt =>
    by_cases hmore : s.txIdx + 1 < s.wordCount
    · right
      simp only [phasesLeft, hp, if_pos hmore, if_true]
      omega
    · exact .inl (if_neg hmore)
  | probeBuild hp | probeDelay hp | originBuild hp | firstTime hp | laterTime hp | lookup hp
  | pollBuild _ hp | disable hp | settle hp | init hp =>
    right
    simp [phasesLeft, hp, Pc.phasesOf]

/-- A run of phases with fuel for the steps left ends at `(Listening, fetch)` or where the core waits. -/
theorem runHandler_ends {n : Nat} {s t : State} (hc : s.wordCount ≤ Config.maxWords)
    (hl : s.pc = .idle ∨ phasesLeft s ≤ n) (h : runHandler n s = .next t) :
    t.pc = .idle ∨ waits t = true := by
  induction n generalizing s with
  | zero =>
    have hpos := phasesLeft_pos s
    obtain rfl : s = t := by simpa using h
    exact hl.imp_right fun h => by omega
  | succ n ih =>
    by_cases hi : s.pc = .idle
    · obtain rfl : s = t := by simpa [runHandler_idle _ hi] using h
      exact .inl hi
    cases hw : waits s with
    | true =>
      obtain rfl : s = t := by simpa [runHandler_waits _ hw] using h
      exact .inr hw
    | false =>
      rw [runHandler_succ n hi hw] at h
      obtain ⟨u, hu, ht⟩ := andThen_eq_next.1 h
      have left := hl.resolve_left hi
      exact ih (phaseStep_wordCount_le hu hc)
        ((phaseStep_phasesLeft_lt hu hi hw hc).imp_right fun lt => by omega) ht

theorem runCommand_ends {s t : State} (hc : s.wordCount ≤ Config.maxWords)
    (h : runCommand s = .next t) : t.pc = .idle ∨ waits t = true := by
  rw [runCommand_eq] at h
  split at h
  · obtain ⟨u, hu, ht⟩ := andThen_eq_next.1 h
    have hcu := phaseStep_wordCount_le hu hc
    exact runHandler_ends hcu (.inr (phasesLeft_le_handlerFuel hcu)) ht
  · exact runHandler_ends hc (.inr (phasesLeft_le_handlerFuel hc)) h

theorem step_no_move {s : State} (h : s.agenda = []) : step s = runCommand s := by
  simp [step, h]

/-- Settles O56: the fuel bounds the steps a handler has left, since every core step that does not wait
leaves fewer. -/
theorem stepIsARunOfCoreSteps : Obligations.StepIsARunOfCoreSteps := by
  intro s hs
  rw [step_no_move hs]
  exact ⟨runCommand_is_phaseRun s, fun inv t h => runCommand_ends inv.wordCountFits h⟩

end Sys2Proof.Machine
end

section
/-! PROOFS. The state of the machine (10_state.md): what every step keeps of it (R29 to R32, R38), the order
of the phases (R22), the invariant and progress under it (R24, R25, R40), where a response goes on (R26), and
which registers are live between commands (R41). -/

namespace Sys2Proof.Machine

/-! ## Moves outside the core -/

/-- A channel that another agent than the core has moved: neither switched nor configured anew (R172). -/
def Channel.MovedFrom (c d : Channel) : Prop := d.enabled = c.enabled ∧ d.cfg = c.cfg

/-- A move outside the core touches the channel and nothing else (R8). -/
theorem hostDrives_eq (b : Byte) (kept : Bool) (s : State) :
    ∃ c, hostDrives b kept s = { s with chan := c } ∧ s.chan.MovedFrom c := by
  unfold hostDrives
  split
  · exact ⟨_, rfl, rfl, rfl⟩
  · exact ⟨s.chan, rfl, rfl, rfl⟩

theorem channelShifts_eq (s : State) :
    ∃ c, channelShifts s = { s with chan := c } ∧ s.chan.MovedFrom c := by
  unfold channelShifts
  split
  · exact ⟨s.chan, rfl, rfl, rfl⟩
  · split
    · exact ⟨_, rfl, rfl, rfl⟩
    · exact ⟨s.chan, rfl, rfl, rfl⟩

theorem txReadyIs_eq (ready : Bool) (s : State) :
    ∃ c, txReadyIs ready s = { s with chan := c } ∧ s.chan.MovedFrom c :=
  ⟨_, rfl, rfl, rfl⟩

/-- A relation that every core step respects, and every change of the agenda and of the channel from
outside, holds across a step. -/
theorem step_rel_of_phase {R : State → State → Prop} (refl : ∀ s, R s s)
    (trans : ∀ {s t u}, R s t → R t u → R s u) (phase : ∀ {s t}, PhaseEffect s t → R s t)
    (agenda : ∀ s l, R s { s with agenda := l })
    (channel : ∀ s c, s.chan.MovedFrom c → R s { s with chan := c })
    {s t : State} (h : step s = .next t) : R s t := by
  have outside {s u : State} (hu : ∃ c, u = { s with chan := c } ∧ s.chan.MovedFrom c) : R s u := by
    obtain ⟨c, rfl, hc⟩ := hu
    exact channel s c hc
  exact step_rel refl trans (fun h => phase (phaseStep_effect h)) agenda
    (fun b k s => outside (hostDrives_eq b k s)) (fun s => outside (channelShifts_eq s))
    (fun r s => outside (txReadyIs_eq r s)) h

/-! ## Parameters and past events -/

/-- `t` has the parameters and `chan_cfg` of `s` and its events, with events added at the end. -/
def ExtendsPast (s t : State) : Prop :=
  t.params = s.params ∧ t.chanCfg = s.chanCfg ∧ s.trace <+: t.trace

theorem ExtendsPast.refl (s : State) : ExtendsPast s s := ⟨rfl, rfl, List.prefix_rfl⟩

theorem ExtendsPast.trans {s t u : State} (h : ExtendsPast s t) (k : ExtendsPast t u) : ExtendsPast s u := by
  obtain ⟨hp, hc, ht⟩ := h
  obtain ⟨kp, kc, kt⟩ := k
  exact ⟨kp.trans hp, kc.trans hc, ht.trans kt⟩

theorem PhaseEffect.extendsPast {s t : State} (h : PhaseEffect s t) : ExtendsPast s t := by
  cases h with
  | firstTime | laterTime => exact ⟨dropReading_params s, dropReading_chanCfg s, List.prefix_append ..⟩
  | wait | probeBuild | originBuild | pollBuild | nothingToSend => exact ⟨rfl, rfl, List.prefix_rfl⟩
  | _ => exact ⟨rfl, rfl, List.prefix_append ..⟩

/-- Settles O54: each core step adds its event at the end, and no move outside the core touches the
parameters, `chan_cfg` or the trace. -/
theorem parametersAndPastEventsAreKept : Obligations.ParametersAndPastEventsAreKept := by
  intro s t h
  obtain ⟨hp, hc, es, he⟩ := step_rel_of_phase ExtendsPast.refl ExtendsPast.trans
    PhaseEffect.extendsPast (fun _ _ => .refl _) (fun _ _ _ => .refl _) h
  exact ⟨hp, hc, es, he.symm⟩

/-! ## The anchor -/

/-- If the anchor is set in `s`, `t` has the same. -/
def KeepsAnchor (s t : State) : Prop :=
  s.anchorValid = true → t.anchorValid = true ∧ t.anchor = s.anchor

theorem KeepsAnchor.refl (s : State) : KeepsAnchor s s := fun h => ⟨h, rfl⟩

theorem KeepsAnchor.trans {s t u : State} (h : KeepsAnchor s t) (k : KeepsAnchor t u) :
    KeepsAnchor s u := fun hs =>
  have ⟨ht, hta⟩ := h hs
  have ⟨hu, hua⟩ := k ht
  ⟨hu, hua.trans hta⟩

/-- Only the first Poll's `time` phase writes the anchor, and then it was not set (R120). -/
theorem PhaseEffect.keepsAnchor {s t : State} (h : PhaseEffect s t) : KeepsAnchor s t := by
  intro hs
  cases h with
  | firstTime hp hv => simp [hv] at hs
  | laterTime => exact ⟨(dropReading_anchorValid s).trans hs, dropReading_anchor s⟩
  | _ => exact ⟨hs, rfl⟩

/-- Settles O52. -/
theorem theAnchorIsNeverReset : Obligations.TheAnchorIsNeverReset := fun _ _ hs h =>
  step_rel_of_phase KeepsAnchor.refl KeepsAnchor.trans PhaseEffect.keepsAnchor
    (fun _ _ => .refl _) (fun _ _ _ => .refl _) h hs

theorem firstNow_append (es fs : List Event) : firstNow (es ++ fs) = (firstNow es).or (firstNow fs) := by
  induction es with
  | nil => rfl
  | cons e es ih => cases e <;> simp [firstNow, ih]

/-- The anchor is set exactly when the time has been read, to the first reading (R29, R30). -/
def AnchorIsFirstReading (s : State) : Prop := anchorOf s = firstNow s.trace

theorem PhaseEffect.anchorIsFirstReading {s t : State} (h : PhaseEffect s t)
    (hs : AnchorIsFirstReading s) : AnchorIsFirstReading t := by
  unfold AnchorIsFirstReading anchorOf at *
  cases h with
  | firstTime hp hv =>
    have none_yet : firstNow s.trace = none := by simpa [hv] using hs.symm
    simp [firstNow_append, none_yet, firstNow]
  | laterTime hp hv =>
    have anchor_read : firstNow s.trace = some s.anchor := by simpa [hv] using hs.symm
    simp [firstNow_append, anchor_read, hv]
  | wait | probeBuild | originBuild | pollBuild | nothingToSend => exact hs
  | _ => simpa [firstNow_append, firstNow] using hs

/-- Settles O53: of all core steps only the `time` phase performs a `Now`, and the first of them sets the
anchor to its reading. -/
theorem theAnchorIsTheFirstReading : Obligations.TheAnchorIsTheFirstReading := fun _ _ hs h =>
  step_rel_of_phase (R := fun s t => AnchorIsFirstReading s → AnchorIsFirstReading t)
    (fun _ => id) (fun h k hs => k (h hs)) PhaseEffect.anchorIsFirstReading
    (fun _ _ => id) (fun _ _ _ => id) h hs

/-! ## The phase table -/

theorem dispatch_eq_entryPc (i : Instr) (s : State) : dispatch i s = { s with pc := entryPc i } := by
  cases i <;> rfl

/-- Where the core need not wait, each effect is what the core step answers. -/
theorem PhaseEffect.phaseStep_eq {s t : State} (h : PhaseEffect s t) (hw : waits s = false) :
    phaseStep s = .next t := by
  cases h with
  | wait h => simp [hw] at h
  | fetch b rest hp hr => simp only [phaseStep_fetch hp, fetchPhase_eq, hr, dispatch_eq_entryPc]
  | probeBuild hp => rw [phaseStep_probeBuild hp, probeBuild_eq, hp]
  | probeDelay hp => rw [phaseStep_probeDelay hp, probeDelay_eq, hp]
  | originBuild hp => rw [phaseStep_originBuild hp, originBuild_eq, hp]
  | payload b rest p hr hp =>
    obtain ⟨hp, rfl⟩ | ⟨hp, rfl⟩ := hp
    · simp only [phaseStep_pay0 hp, payloadPhase_eq, hr, hp]
    · simp only [phaseStep_pay1 hp, payloadPhase_eq, hr, hp]
  | firstTime hp hv => rw [phaseStep_time hp]; exact pollTime_eq_next.2 (.inl ⟨hv, by rw [hp]⟩)
  | laterTime hp hv hle => rw [phaseStep_time hp]; exact pollTime_eq_next.2 (.inr ⟨hv, hle, by rw [hp]⟩)
  | lookup hp => rw [phaseStep_lookup hp, pollLookup_eq, hp]
  | pollBuild bs hp hm hl =>
    rw [phaseStep_pollBuild hp]; exact pollBuild_eq_next.2 ⟨bs, hm, hl, by rw [hp]⟩
  | mode f hf hp hc => rw [phaseStep_mode hf hp, modePhase_eq, if_neg hc, hp]
  | write f w hf hp hi ha hw => rw [phaseStep_tx hf hp, txPhase_write hi hw ha, hp]
  | nothingToSend f hf hp =>
    obtain ⟨hp, hc⟩ | ⟨hp, hi⟩ := hp
    · rw [phaseStep_mode hf hp, modePhase_eq, if_pos hc]
    · rw [phaseStep_tx hf hp]; exact txPhase_eq_next.2 (.inr (.inr ⟨hi, rfl⟩))
  | disable hp => rw [phaseStep_disable hp, recoverDisable_eq, hp]
  | settle hp => rw [phaseStep_settle hp, recoverSettle_eq, hp]
  | init hp => rw [phaseStep_init hp, recoverInit_eq, hp]
  | enable hp => rw [phaseStep_enable hp, recoverEnable_eq]

theorem entryPc_mem_next_idle (i : Instr) : entryPc i ∈ Pc.idle.next := by cases i <;> simp [entryPc, Pc.next]

theorem entryPc_ne_idle (i : Instr) : entryPc i ≠ .idle := by cases i <;> simp [entryPc]

theorem waits_of_read {s : State} {b : Byte} {rest : List Byte} (hr : s.chan.rx = b :: rest)
    (hp : s.pc.phase ≠ .tx) : waits s = false := by
  simp [waits, hr, hp]

/-- The `tx` phase waits exactly where a word is left to write that the channel does not accept. -/
theorem waits_tx {s : State} {f : Fsm} (hp : s.pc = ⟨f, .tx⟩) :
    waits s = (decide (s.txIdx < s.wordCount) && !accepts s.chan) := by
  simp [waits, reading, hp]

/-- Settles O47: every effect of a core step but `wait` and a `write` that is not the last one moves the pc
along the table. -/
theorem phasesFollowTheTable : Obligations.PhasesFollowTheTable := by
  intro s t h
  cases phaseStep_effect h with
  | wait hw => exact .inl ⟨hw, rfl⟩
  | fetch b rest hp hr =>
    refine .inr (.inr ⟨waits_of_read hr (by simp [hp]), ?_⟩)
    rw [hp]
    exact ⟨entryPc_ne_idle _, entryPc_mem_next_idle _⟩
  | payload b rest p hr hp =>
    refine .inr (.inr ⟨waits_of_read hr (by obtain ⟨hp, -⟩ | ⟨hp, -⟩ := hp <;> simp [hp]), ?_⟩)
    obtain ⟨hp, rfl⟩ | ⟨hp, rfl⟩ := hp <;> simp [hp, Pc.next]
  | mode f hf hp =>
    refine .inr (.inr ⟨waits_false hp (by decide), ?_⟩)
    obtain rfl | rfl | rfl := hf <;> simp [hp, Pc.next]
  | write f w hf hp hi ha =>
    have hw : waits s = false := by simp [waits_tx hp, ha]
    by_cases hmore : s.txIdx + 1 < s.wordCount
    · exact .inr (.inl ⟨hw, by simp [hp], by simp [hp, hmore], rfl⟩)
    · refine .inr (.inr ⟨hw, ?_⟩)
      obtain rfl | rfl | rfl := hf <;> simp [hp, hmore, Pc.next]
  | nothingToSend f hf hp =>
    obtain ⟨hp, -⟩ | ⟨hp, hi⟩ := hp
    · refine .inr (.inr ⟨waits_false hp (by decide), ?_⟩)
      obtain rfl | rfl | rfl := hf <;> simp [hp, Pc.next]
    · refine .inr (.inr ⟨by simp [waits_tx hp, hi], ?_⟩)
      obtain rfl | rfl | rfl := hf <;> simp [hp, Pc.next]
  | probeBuild hp | probeDelay hp | originBuild hp | firstTime hp | laterTime hp | lookup hp
  | pollBuild _ hp | disable hp | settle hp | init hp | enable hp =>
    exact .inr (.inr ⟨waits_false hp (by decide), by simp [hp, Pc.next]⟩)

/-! ## The invariant (R22, R24, R25, R40, R172) -/

/-- Power-up meets the invariant, whatever the parameters and the channel configuration. -/
theorem stateInv_powerUp (p : Params) (c : ChanCfg) : StateInv (State.powerUp p c) := by
  constructor <;> simp [State.powerUp, Pc.legal, Pc.phasesOf, Memory.wf, Channel.afterBringUp, Pc.channelOff]

/-- Settles O49. -/
theorem powerUpMeetsTheInvariant : Obligations.PowerUpMeetsTheInvariant :=
  ⟨fun p c => ⟨rfl, rfl, rfl, rfl, rfl, rfl, stateInv_powerUp p c⟩, stateInv_powerUp _ _⟩

theorem Fsm.responding.tx_legal {f : Fsm} (hf : f.responding) : Pc.legal ⟨f, .tx⟩ = true := by
  obtain rfl | rfl | rfl := hf <;> rfl

theorem Fsm.responding.channelOff {f : Fsm} (hf : f.responding) (p : Phase) :
    Pc.channelOff ⟨f, p⟩ = false := by
  obtain rfl | rfl | rfl := hf <;> rfl

theorem entryPc_legal (i : Instr) : (entryPc i).legal = true := by cases i <;> rfl

theorem entryPc_channelOff (i : Instr) : (entryPc i).channelOff = false := by cases i <;> rfl

/-- The channel is as the next pc wants it where that pc wants it as the present one does. -/
theorem StateInv.enabledAt {s : State} (inv : StateInv s) {p q : Pc} (hp : s.pc = p)
    (same : p.channelOff = q.channelOff) : s.chan.enabled = !q.channelOff := by
  rw [inv.channelOn, hp, same]

/-- A place of which the invariant asks nothing: it neither sends words nor encodes a record. -/
def Pc.asksNothing (p : Pc) : Bool :=
  p.phase != .delay && p.phase != .mode && p.phase != .tx && p != ⟨.respondingPoll, .build⟩

theorem entryPc_asksNothing (i : Instr) : (entryPc i).asksNothing = true := by cases i <;> rfl

/-- Moving the pc keeps the invariant where it asks nothing of the new place and the channel is switched as
it wants. -/
theorem StateInv.moveTo {s : State} (inv : StateInv s) {p : Pc} (legal : p.legal = true)
    (nothing : p.asksNothing = true) (on : s.chan.enabled = !p.channelOff) : StateInv { s with pc := p } := by
  obtain ⟨⟨⟨noDelay, noMode⟩, noTx⟩, noBuild⟩ := by simpa [Pc.asksNothing] using nothing
  exact { inv with
    pcLegal := legal
    channelOn := on
    wordsWritten := fun h => by simp [noDelay, noMode, noTx] at h
    txUnderway := fun h => absurd h noTx
    recordLoaded := fun h => absurd h noBuild }

theorem StateInv.dropReading {s : State} (inv : StateInv s) : StateInv (dropReading s) := by
  unfold Machine.dropReading
  split <;> exact { inv with }

/-- Every element that `MemWrite` from index 0 on has written can be read. -/
theorem isSome_read_memWrite {w : Nat} (m : Memory w) (vs : List (BitVec w)) :
    ∀ k < vs.length, (Memory.read (memWrite m 0 vs) k).isSome = true := by
  intro k hk
  simp [read_memWrite, hk]

/-- Loading a response keeps the invariant, in Poll's `build` a whole record. -/
theorem StateInv.load {s : State} (inv : StateInv s) {bs : List Byte}
    (hl : bs.length ≤ Config.maxResponseBytes)
    (whole : s.pc = ⟨.respondingPoll, .build⟩ → bs.length = Config.recordBytes) :
    StateInv { s with resp := memWrite s.resp 0 bs, respLen := bs.length } :=
  { inv with
    respCanonical := memWrite_wf _ _ _ inv.respCanonical
    respInside := memWrite_inside _ _ _ inv.respInside (by simpa using hl)
    respLenFits := hl
    recordLoaded := fun hp => ⟨whole hp, isSome_read_memWrite _ _⟩ }

/-- Encoding a response that is not empty, on the way to `delay` or `mode`, keeps the invariant. -/
theorem StateInv.encode {s : State} (inv : StateInv s) {bs : List Byte} (hne : bs.length ≠ 0)
    (fits : symbolWordCount bs.length ≤ Config.maxWords) {p : Pc} (legal : p.legal = true)
    (next : p.phase = .delay ∨ p.phase = .mode) (on : s.chan.enabled = !p.channelOff) :
    StateInv
      { s with
        pc := p
        words := memWrite s.words 0 (symbolEncode bs)
        wordCount := symbolWordCount bs.length } :=
  { inv with
    pcLegal := legal
    wordsCanonical := memWrite_wf _ _ _ inv.wordsCanonical
    wordsInside := memWrite_inside _ _ _ inv.wordsInside (by simpa using fits)
    wordCountFits := fits
    wordsWritten := fun _ =>
      ⟨symbolWordCount_pos hne, by simpa using isSome_read_memWrite s.words (symbolEncode bs)⟩
    txUnderway := fun h => by simp [show p.phase = .tx from h] at next
    recordLoaded := by rintro rfl; simp at next
    channelOn := on }

/-- Assembling a response outside Poll and encoding it keeps the invariant. -/
theorem StateInv.respond {s : State} (inv : StateInv s) {bs : List Byte} (hne : bs.length ≠ 0)
    (hl : bs.length ≤ Config.maxResponseBytes) {p : Pc} (legal : p.legal = true)
    (next : p.phase = .delay ∨ p.phase = .mode) (on : s.chan.enabled = !p.channelOff)
    (here : s.pc ≠ ⟨.respondingPoll, .build⟩) :
    StateInv
      { s with
        pc := p
        resp := memWrite s.resp 0 bs
        respLen := bs.length
        words := memWrite s.words 0 (symbolEncode bs)
        wordCount := symbolWordCount bs.length } :=
  (inv.load hl fun h => absurd h here).encode hne (symbolWordCount_le hl) legal next on

theorem PhaseEffect.keepsInv {s t : State} (h : PhaseEffect s t) (inv : StateInv s) : StateInv t := by
  cases h with
  | wait => exact inv
  | fetch b rest hp =>
    have on := inv.enabledAt hp (entryPc_channelOff (selects b rest)).symm
    exact { inv.moveTo (entryPc_legal _) (entryPc_asksNothing _) on with }
  | probeBuild hp =>
    exact inv.respond (bs := probePayload) (by decide) (by decide) rfl (.inl rfl)
      (inv.enabledAt hp rfl) (by simp [hp])
  | originBuild hp =>
    exact inv.respond (bs := originPayload) (by decide) (by decide) rfl (.inr rfl)
      (inv.enabledAt hp rfl) (by simp [hp])
  | probeDelay hp =>
    exact { inv with
      pcLegal := rfl
      wordsWritten := fun _ => inv.wordsWritten (.inl (by rw [hp]))
      txUnderway := by simp
      recordLoaded := by simp
      channelOn := inv.enabledAt hp rfl }
  | payload b rest p hr hp =>
    obtain ⟨hp, rfl⟩ | ⟨hp, rfl⟩ := hp
    · exact { inv.moveTo (p := ⟨.respondingPoll, .pay1⟩) rfl rfl (inv.enabledAt hp rfl) with }
    · exact { inv.moveTo (p := ⟨.respondingPoll, .time⟩) rfl rfl (inv.enabledAt hp rfl) with }
  | firstTime hp | laterTime hp =>
    have on := inv.dropReading.enabledAt (q := ⟨.respondingPoll, .lookup⟩) ((dropReading_pc s).trans hp) rfl
    exact { inv.dropReading.moveTo rfl rfl on with }
  | lookup hp =>
    have loaded := inv.load (bs := recordBytesOf (rfsFetch s.params.rfs s.frameR)) (by simp) (by simp [hp])
    exact { loaded with
      pcLegal := rfl
      wordsWritten := by simp
      txUnderway := by simp
      recordLoaded := fun _ => ⟨rfl, by simpa using isSome_read_memWrite s.resp (recordBytesOf _)⟩
      channelOn := inv.enabledAt hp rfl }
  | pollBuild bs hp hm hl =>
    have whole : bs.length = Config.recordBytes :=
      (memRead_eq_some.1 hm).1.trans (inv.recordLoaded hp).1
    exact inv.encode (by simp [whole]) hl rfl (.inr rfl) (inv.enabledAt hp rfl)
  | mode f hf hp hc =>
    exact { inv with
      pcLegal := hf.tx_legal
      txIdxFits := Nat.zero_le _
      wordsWritten := fun _ => inv.wordsWritten (.inr (.inl (by rw [hp])))
      txUnderway := fun _ => Nat.pos_of_ne_zero hc
      recordLoaded := by simp
      channelOn := inv.enabledAt hp ((hf.channelOff _).trans (hf.channelOff _).symm) }
  | write f w hf hp hi =>
    have fits : s.txIdx + 1 ≤ Config.maxWords := hi.trans_le inv.wordCountFits
    split
    · next hmore =>
      exact { inv with
        pcLegal := hf.tx_legal
        txIdxFits := fits
        wordsWritten := fun _ => inv.wordsWritten (.inr (.inr (by rw [hp])))
        txUnderway := fun _ => hmore
        recordLoaded := by simp
        channelOn := inv.enabledAt hp rfl }
    · exact { inv.moveTo (p := .idle) rfl rfl (inv.enabledAt hp (hf.channelOff _)) with
        txIdxFits := fits
        txUnderway := by simp }
  | nothingToSend f hf hp =>
    obtain ⟨hp, -⟩ | ⟨hp, -⟩ := hp <;> exact inv.moveTo rfl rfl (inv.enabledAt hp (hf.channelOff _))
  | settle hp =>
    exact { inv.moveTo (p := ⟨.recovering, .init⟩) rfl rfl (inv.enabledAt hp rfl) with }
  | init hp =>
    exact { inv.moveTo (p := ⟨.recovering, .enable⟩) rfl rfl (inv.enabledAt hp rfl) with
      channelConfigured := rfl }
  | disable | enable =>
    exact { inv with
      pcLegal := rfl, channelOn := rfl
      wordsWritten := by simp
      txUnderway := by simp
      recordLoaded := by simp }

/-- Settles O50: each effect of a core step keeps the invariant, and no move outside the core switches or
configures the channel. -/
theorem everyStepKeepsTheInvariant : Obligations.EveryStepKeepsTheInvariant := fun _ _ inv h =>
  step_rel_of_phase (R := fun s t => StateInv s → StateInv t) (fun _ => id) (fun h k inv => k (h inv))
    PhaseEffect.keepsInv (fun _ _ inv => { inv with })
    (fun _ _ hc inv =>
      { inv with
        channelOn := hc.1.trans inv.channelOn
        channelConfigured := hc.2.trans inv.channelConfigured })
    h inv

/-! ## Progress (R40, R128, R161) -/

/-- The time source's coming reading is earlier than the anchor: the input R128 puts outside the spec. -/
def ReadsBeforeAnchor (s : State) : Prop := s.anchorValid = true ∧ nextReading s < s.anchor

/-- The result is a next state, or the refusal of R128 with its cause `c`. -/
def CompletesOr (c : Prop) (x : StepResult) : Prop :=
  (∃ t, x = .next t) ∨ x = .refused .timeBeforeAnchor ∧ c

theorem CompletesOr.imp {c d : Prop} {x : StepResult} (h : CompletesOr c x) (hcd : c → d) : CompletesOr d x :=
  h.imp_right fun ⟨hx, hc⟩ => ⟨hx, hcd hc⟩

theorem fetchPhase_completes (s : State) : ∃ t, fetchPhase s = .next t := by
  rw [fetchPhase_eq]
  split <;> exact ⟨_, rfl⟩

theorem payloadPhase_completes (p : Phase) (s : State) : ∃ t, payloadPhase p s = .next t := by
  rw [payloadPhase_eq]
  split <;> exact ⟨_, rfl⟩

theorem modePhase_completes (s : State) : ∃ t, modePhase s = .next t := by
  rw [modePhase_eq]
  split <;> exact ⟨_, rfl⟩

theorem pollTime_completes_or_refuses (s : State) : CompletesOr (ReadsBeforeAnchor s) (pollTime s) := by
  cases hv : s.anchorValid with
  | false => exact .inl ⟨_, pollTime_eq_next.2 (.inl ⟨hv, rfl⟩)⟩
  | true =>
    by_cases hlt : nextReading s < s.anchor
    · exact .inr ⟨pollTime_eq_refused.2 ⟨hv, hlt, rfl⟩, hv, hlt⟩
    · exact .inl ⟨_, pollTime_eq_next.2 (.inr ⟨hv, BitVec.not_lt.1 hlt, rfl⟩)⟩

/-- Poll's `build` finds the whole record in RESP. -/
theorem pollBuild_completes {s : State} (inv : StateInv s) (hp : s.pc = ⟨.respondingPoll, .build⟩) :
    ∃ t, pollBuild s = .next t := by
  obtain ⟨-, written⟩ := inv.recordLoaded hp
  obtain ⟨bs, hm⟩ := memRead_isSome (m := s.resp) (a := 0) (by simpa using written)
  have fits : bs.length ≤ Config.maxResponseBytes := (memRead_eq_some.1 hm).1.trans_le inv.respLenFits
  exact ⟨_, pollBuild_eq_next.2 ⟨bs, hm, symbolWordCount_le fits, rfl⟩⟩

/-- `tx` finds the word it is to write. -/
theorem txPhase_completes {s : State} (inv : StateInv s) (hp : s.pc.phase = .tx) :
    ∃ t, txPhase s = .next t := by
  have more := inv.txUnderway hp
  have written := (inv.wordsWritten (.inr (.inr hp))).2 _ more
  cases ha : accepts s.chan with
  | true =>
    obtain ⟨w, hw⟩ := Option.isSome_iff_exists.1 written
    exact ⟨_, txPhase_write more hw ha⟩
  | false => exact ⟨s, txPhase_eq_next.2 (.inr (.inl ⟨more, ha, written, rfl⟩))⟩

theorem Fsm.responding.transmits {s : State} {f : Fsm} (hf : f.responding) (inv : StateInv s)
    (hp : s.pc = ⟨f, .mode⟩ ∨ s.pc = ⟨f, .tx⟩) : ∃ t, phaseStep s = .next t := by
  obtain hp | hp := hp
  · rw [phaseStep_mode hf hp]; exact modePhase_completes s
  · rw [phaseStep_tx hf hp]; exact txPhase_completes inv (by rw [hp])

/-- From a state that meets the invariant a core step completes, row by row of R22's table, or is the
`time` phase of a Poll and refuses its reading. -/
theorem phaseStep_completes_or_refuses {s : State} (inv : StateInv s) :
    CompletesOr (s.pc = ⟨.respondingPoll, .time⟩ ∧ ReadsBeforeAnchor s) (phaseStep s) := by
  have legal := inv.pcLegal
  rcases hp : s.pc with ⟨f, p⟩
  rw [hp] at legal
  cases f with
  | listening =>
    obtain rfl : p = .fetch := by simpa [Pc.legal, Pc.phasesOf] using legal
    rw [phaseStep_fetch hp]; exact .inl (fetchPhase_completes s)
  | respondingProbe =>
    obtain rfl | rfl | h : p = .build ∨ p = .delay ∨ p = .mode ∨ p = .tx := by
      simpa [Pc.legal, Pc.phasesOf] using legal
    · rw [phaseStep_probeBuild hp]; exact .inl ⟨_, probeBuild_eq s⟩
    · rw [phaseStep_probeDelay hp]; exact .inl ⟨_, rfl⟩
    · exact .inl (Fsm.responding.transmits (.inl rfl) inv (by simpa [hp] using h))
  | respondingOrigin =>
    obtain rfl | h : p = .build ∨ p = .mode ∨ p = .tx := by simpa [Pc.legal, Pc.phasesOf] using legal
    · rw [phaseStep_originBuild hp]; exact .inl ⟨_, originBuild_eq s⟩
    · exact .inl (Fsm.responding.transmits (.inr (.inl rfl)) inv (by simpa [hp] using h))
  | respondingPoll =>
    obtain rfl | rfl | rfl | rfl | rfl | h :
        p = .pay0 ∨ p = .pay1 ∨ p = .time ∨ p = .lookup ∨ p = .build ∨ p = .mode ∨ p = .tx := by
      simpa [Pc.legal, Pc.phasesOf] using legal
    · rw [phaseStep_pay0 hp]; exact .inl (payloadPhase_completes _ s)
    · rw [phaseStep_pay1 hp]; exact .inl (payloadPhase_completes _ s)
    · rw [phaseStep_time hp]; exact (pollTime_completes_or_refuses s).imp fun h => ⟨rfl, h⟩
    · rw [phaseStep_lookup hp]; exact .inl ⟨_, pollLookup_eq s⟩
    · rw [phaseStep_pollBuild hp]; exact .inl (pollBuild_completes inv hp)
    · exact .inl (Fsm.responding.transmits (.inr (.inr rfl)) inv (by simpa [hp] using h))
  | recovering =>
    obtain rfl | rfl | rfl | rfl : p = .disable ∨ p = .settle ∨ p = .init ∨ p = .enable := by
      simpa [Pc.legal, Pc.phasesOf] using legal
    · rw [phaseStep_disable hp]; exact .inl ⟨_, rfl⟩
    · rw [phaseStep_settle hp]; exact .inl ⟨_, rfl⟩
    · rw [phaseStep_init hp]; exact .inl ⟨_, rfl⟩
    · rw [phaseStep_enable hp]; exact .inl ⟨_, rfl⟩

/-- A Poll in `t` has not yet read the time since `s`: up to its `time` phase it still has the anchor and the
coming reading of `s`. -/
def UnreadSince (s t : State) : Prop :=
  t.pc = ⟨.respondingPoll, .pay0⟩ ∨ t.pc = ⟨.respondingPoll, .pay1⟩ ∨ t.pc = ⟨.respondingPoll, .time⟩ →
    t.anchorValid = s.anchorValid ∧ t.anchor = s.anchor ∧ nextReading t = nextReading s

theorem UnreadSince.refl (s : State) : UnreadSince s s := fun _ => ⟨rfl, rfl, rfl⟩

/-- Only FETCH and the payload phases lead to a phase of Poll up to `time`. -/
theorem PhaseEffect.unreadSince {s₀ s t : State} (h : PhaseEffect s t) (hs : UnreadSince s₀ s)
    (hi : s.pc ≠ .idle) : UnreadSince s₀ t := by
  intro ht
  cases h with
  | wait => exact hs ht
  | fetch b rest hp => exact absurd hp hi
  | payload b rest p hr hp =>
    exact hs (by obtain ⟨hp, -⟩ | ⟨hp, -⟩ := hp <;> simp [hp])
  | write => split at ht <;> simp at ht
  | _ => simp at ht

theorem runHandler_completes_or_refuses {n : Nat} {s₀ s : State} (inv : StateInv s)
    (unread : UnreadSince s₀ s) : CompletesOr (ReadsBeforeAnchor s₀) (runHandler n s) := by
  induction n generalizing s with
  | zero => exact .inl ⟨s, rfl⟩
  | succ n ih =>
    by_cases hi : s.pc = .idle
    · exact .inl ⟨s, runHandler_idle _ hi⟩
    cases hw : waits s with
    | true => exact .inl ⟨s, runHandler_waits _ hw⟩
    | false =>
      rw [runHandler_succ n hi hw]
      obtain ⟨u, hu⟩ | ⟨hr, hp, hv, hlt⟩ := phaseStep_completes_or_refuses inv
      · rw [hu, andThen_next]
        have effect := phaseStep_effect hu
        exact ih (effect.keepsInv inv) (effect.unreadSince unread hi)
      · rw [hr, andThen_refused]
        obtain ⟨ev, ea, er⟩ := unread (.inr (.inr hp))
        exact .inr ⟨rfl, ev ▸ hv, er ▸ ea ▸ hlt⟩

theorem runCommand_completes_or_refuses {s : State} (inv : StateInv s) :
    CompletesOr (ReadsBeforeAnchor s) (runCommand s) := by
  rw [runCommand_eq]
  split
  · next hi =>
    cases hr : s.chan.rx with
    | nil =>
      rw [phaseStep_fetch hi, fetchPhase_eq, hr, andThen_next, runHandler_idle _ hi]
      exact .inl ⟨s, rfl⟩
    | cons b rest =>
      have effect := PhaseEffect.fetch b rest hi hr
      rw [effect.phaseStep_eq (waits_of_read hr (by simp [hi])), andThen_next]
      exact runHandler_completes_or_refuses (effect.keepsInv inv) fun _ => ⟨rfl, rfl, rfl⟩
  · exact runHandler_completes_or_refuses inv (.refl s)

/-- Settles O51. -/
theorem noStepFaults : Obligations.NoStepFaults := by
  intro s inv
  show CompletesOr (ReadsBeforeAnchor s) (step s)
  unfold step
  split
  · exact runCommand_completes_or_refuses inv
  · next m rest _ =>
    cases m with
    | corePhase =>
      have inv' : StateInv { s with agenda := rest } := { inv with }
      exact (phaseStep_completes_or_refuses inv').imp fun h => h.2
    | hostDrives | channelShifts | txReadyIs => exact .inl ⟨_, rfl⟩

/-! ## Where a response goes on -/

/-- Settles O18: `tx` waits on a channel that is not ready, and on a ready one writes the words from
`tx_idx` on. -/
theorem responseResumesAtTheNextWord : Obligations.ResponseResumesAtTheNextWord := by
  intro f ws s hf hp ha he hm hc hi hl hw
  have enough : ws.length ≤ handlerFuel := by unfold handlerFuel; omega
  have some_left : ws ≠ [] := by rintro rfl; simp at hl; omega
  rw [step_no_move (by simpa using ha), step_no_move (by simpa using ha)]
  constructor
  · exact runCommand_waits (by simp [waits_tx (s := txReadyIs false s) hp, hi, accepts])
  · rw [runCommand_eq, if_neg (by simp [hp])]
    exact runHandler_tx hf hp some_left (by simp; omega) (by simp [accepts, he, hm])
      (memRead_eq_some.2 ⟨rfl, hw⟩) enough

/-! ## What a handler reads of the registers (R41) -/

/-- Two states that agree in all that the rest of the command in hand can depend on: what is live between
commands, and the registers that a phase from `pc` on reads before a phase writes them. -/
structure Alike (s t : State) : Prop extends SameLive s t where
  /-- Poll's `lookup` reads the frame. -/
  frameR : s.pc = ⟨.respondingPoll, .lookup⟩ → s.frameR = t.frameR
  /-- Poll's `build` reads the record. -/
  record : s.pc = ⟨.respondingPoll, .build⟩ → memRead s.resp 0 s.respLen = memRead t.resp 0 t.respLen
  /-- From the end of `build` on the words of the response are read. -/
  response : s.pc.phase = .delay ∨ s.pc.phase = .mode ∨ s.pc.phase = .tx →
    s.wordCount = t.wordCount ∧ ∀ k < s.wordCount, Memory.read s.words k = Memory.read t.words k
  /-- `tx` reads the index of the next word. -/
  txIdx : s.pc.phase = .tx → s.txIdx = t.txIdx

/-- A place from which no register is read before it is written. -/
def Pc.readsNoRegister (p : Pc) : Bool := p.asksNothing && p != ⟨.respondingPoll, .lookup⟩

theorem entryPc_readsNoRegister (i : Instr) : (entryPc i).readsNoRegister = true := by cases i <;> rfl

/-- Where no register is read, what is live between commands is all that is live. -/
theorem SameLive.alike {s t : State} (h : SameLive s t) (quiet : s.pc.readsNoRegister = true) : Alike s t := by
  obtain ⟨⟨⟨⟨noDelay, noMode⟩, noTx⟩, noBuild⟩, noLookup⟩ := by
    simpa [Pc.readsNoRegister, Pc.asksNothing] using quiet
  exact { h with
    frameR := fun hp => absurd hp noLookup
    record := fun hp => absurd hp noBuild
    response := fun hp => by simp [noDelay, noMode, noTx] at hp
    txIdx := fun hp => absurd hp noTx }

/-- Between `build` and `tx` the words of the response are live, and nothing else beside. -/
theorem SameLive.alike_before_tx {s t : State} (h : SameLive s t)
    (hp : s.pc.phase = .delay ∨ s.pc.phase = .mode)
    (response : s.wordCount = t.wordCount ∧
      ∀ k < s.wordCount, Memory.read s.words k = Memory.read t.words k) : Alike s t :=
  { h with
    frameR := fun hl => by simp [hl] at hp
    record := fun hb => by simp [hb] at hp
    response := fun _ => response
    txIdx := fun ht => by simp [ht] at hp }

theorem SameLive.nextReading {s t : State} (h : SameLive s t) : nextReading s = nextReading t := by
  simp only [Machine.nextReading, h.nowIn, h.nowDraws]

theorem SameLive.dropReading {s t : State} (h : SameLive s t) : SameLive (dropReading s) (dropReading t) := by
  unfold Machine.dropReading
  rw [h.nowIn]
  split
  · exact { h with nowIn := rfl }
  · exact { h with nowIn := rfl, nowDraws := by rw [h.nowDraws] }

theorem Alike.waits {s t : State} (h : Alike s t) : waits s = waits t := by
  by_cases hp : s.pc.phase = .tx
  · simp only [Machine.waits, reading, ← h.pc, ← h.chan, h.txIdx hp, (h.response (.inr (.inr hp))).1]
  · have noTx : (s.pc.phase == .tx) = false := by simpa using hp
    simp [Machine.waits, reading, ← h.pc, ← h.chan, noTx]

/-- The words of a response just encoded do not depend on what WORDS held. -/
theorem read_words_just_encoded (m m' : Memory 32) (bs : List Byte) :
    ∀ k < symbolWordCount bs.length,
      Memory.read (memWrite m 0 (symbolEncode bs)) k = Memory.read (memWrite m' 0 (symbolEncode bs)) k := by
  intro k hk
  simp [read_memWrite, hk]

theorem read_record_just_loaded (m : Memory 8) (r : Record) :
    memRead (memWrite m 0 (recordBytesOf r)) 0 10 = some (recordBytesOf r) := by
  simpa using memRead_memWrite m 0 (recordBytesOf r)

/-- Of two states alike, what a core step does to one it does to the other, and they are alike again. -/
theorem PhaseEffect.alike {s s' t : State} (h : PhaseEffect s s') (al : Alike s t) :
    ∃ t', PhaseEffect t t' ∧ Alike s' t' := by
  have live := al.toSameLive
  have event (e : Event) : s.trace ++ [e] = t.trace ++ [e] := by rw [live.trace]
  cases h with
  | wait hw => exact ⟨t, .wait (al.waits ▸ hw), al⟩
  | fetch b rest hp hr =>
    refine ⟨_, .fetch b rest (live.pc ▸ hp) (live.chan ▸ hr), SameLive.alike ?_ (entryPc_readsNoRegister _)⟩
    exact { live with pc := rfl, chan := by rw [live.chan], trace := event _ }
  | probeBuild hp =>
    exact ⟨_, .probeBuild (live.pc ▸ hp), SameLive.alike_before_tx { live with pc := rfl } (.inl rfl)
      ⟨rfl, read_words_just_encoded s.words t.words probePayload⟩⟩
  | originBuild hp =>
    exact ⟨_, .originBuild (live.pc ▸ hp), SameLive.alike_before_tx { live with pc := rfl } (.inr rfl)
      ⟨rfl, read_words_just_encoded s.words t.words originPayload⟩⟩
  | probeDelay hp =>
    refine ⟨_, .probeDelay (live.pc ▸ hp), SameLive.alike_before_tx ?_ (.inr rfl) ?_⟩
    · exact { live with pc := rfl, trace := live.params ▸ event _ }
    · exact al.response (.inl (by rw [hp]))
  | payload b rest p hr hp =>
    refine ⟨_, .payload b rest p (live.chan ▸ hr) (live.pc ▸ hp), SameLive.alike ?_ ?_⟩
    · exact { live with pc := rfl, chan := by rw [live.chan], trace := event _ }
    · obtain ⟨-, rfl⟩ | ⟨-, rfl⟩ := hp <;> rfl
  | firstTime hp hv =>
    exact ⟨_, .firstTime (live.pc ▸ hp) (live.anchorValid ▸ hv),
      { live.dropReading with
        pc := rfl
        anchorValid := rfl
        anchor := fun _ => live.nextReading
        trace := live.nextReading ▸ event _
        frameR := fun _ => rfl
        record := by simp, response := by simp, txIdx := by simp }⟩
  | laterTime hp hv hle =>
    have sameReading := live.nextReading
    have sameAnchor := live.anchor hv
    exact ⟨_, .laterTime (live.pc ▸ hp) (live.anchorValid ▸ hv) (sameAnchor ▸ sameReading ▸ hle),
      { live.dropReading with
        pc := rfl
        trace := sameReading ▸ event _
        frameR := fun _ => by rw [sameReading, sameAnchor]
        record := by simp, response := by simp, txIdx := by simp }⟩
  | lookup hp =>
    refine ⟨_, .lookup (live.pc ▸ hp), ?_⟩
    rw [← al.frameR hp, ← live.params]
    exact
      { live with
        pc := rfl
        params := rfl
        trace := event _
        frameR := by simp, response := by simp, txIdx := by simp
        record := fun _ => (read_record_just_loaded ..).trans (read_record_just_loaded ..).symm }
  | pollBuild bs hp hm hl =>
    exact ⟨_, .pollBuild bs (live.pc ▸ hp) (al.record hp ▸ hm) hl,
      SameLive.alike_before_tx { live with pc := rfl } (.inr rfl)
        ⟨rfl, read_words_just_encoded s.words t.words bs⟩⟩
  | mode f hf hp hc =>
    have same := al.response (.inr (.inl (by rw [hp])))
    exact ⟨_, .mode f hf (live.pc ▸ hp) (same.1 ▸ hc),
      { live with
        pc := rfl
        chan := by rw [live.chan]
        trace := event _
        frameR := by simp, record := by simp
        response := fun _ => same
        txIdx := fun _ => rfl }⟩
  | write f w hf hp hi ha hw =>
    have idx := al.txIdx (by rw [hp])
    have same := al.response (.inr (.inr (by rw [hp])))
    refine ⟨_, .write f w hf (live.pc ▸ hp) (same.1 ▸ idx ▸ hi) (live.chan ▸ ha)
      (idx ▸ same.2 _ hi ▸ hw), ?_⟩
    rw [← idx, ← same.1, ← live.chan]
    exact
      { live with
        pc := rfl
        chan := rfl
        trace := event _
        frameR := by split <;> simp
        record := by split <;> simp
        response := fun _ => ⟨rfl, same.2⟩
        txIdx := fun _ => rfl }
  | nothingToSend f hf hp =>
    refine ⟨_, .nothingToSend f hf ?_, SameLive.alike { live with pc := rfl } rfl⟩
    obtain ⟨hp, hc⟩ | ⟨hp, hi⟩ := hp
    · exact .inl ⟨live.pc ▸ hp, (al.response (.inr (.inl (by rw [hp])))).1 ▸ hc⟩
    · have same := al.response (.inr (.inr (by rw [hp])))
      exact .inr ⟨live.pc ▸ hp, same.1 ▸ al.txIdx (by rw [hp]) ▸ hi⟩
  | disable hp =>
    exact ⟨_, .disable (live.pc ▸ hp),
      SameLive.alike { live with pc := rfl, chan := by rw [live.chan], trace := event _ } rfl⟩
  | settle hp =>
    exact ⟨_, .settle (live.pc ▸ hp),
      SameLive.alike { live with pc := rfl, trace := live.params ▸ event _ } rfl⟩
  | init hp =>
    exact ⟨_, .init (live.pc ▸ hp),
      SameLive.alike
        { live with pc := rfl, chan := by simp [live.chan, live.chanCfg, live.params], trace := event _ }
        rfl⟩
  | enable hp =>
    exact ⟨_, .enable (live.pc ▸ hp),
      SameLive.alike { live with pc := rfl, chan := by rw [live.chan], trace := event _ } rfl⟩

theorem runHandler_alike {n : Nat} {s s' t : State} (al : Alike s t) (h : runHandler n s = .next s') :
    ∃ t', runHandler n t = .next t' ∧ Alike s' t' := by
  induction n generalizing s t with
  | zero =>
    obtain rfl : s = s' := by simpa using h
    exact ⟨t, rfl, al⟩
  | succ n ih =>
    by_cases hi : s.pc = .idle
    · obtain rfl : s = s' := by simpa [runHandler_idle _ hi] using h
      exact ⟨t, runHandler_idle _ (al.pc ▸ hi), al⟩
    cases hw : waits s with
    | true =>
      obtain rfl : s = s' := by simpa [runHandler_waits _ hw] using h
      exact ⟨t, runHandler_waits _ (al.waits ▸ hw), al⟩
    | false =>
      have hi' : t.pc ≠ .idle := al.pc ▸ hi
      have hw' : waits t = false := al.waits ▸ hw
      rw [runHandler_succ n hi hw] at h
      obtain ⟨u, hu, hr⟩ := andThen_eq_next.1 h
      obtain ⟨v, effect, al'⟩ := (phaseStep_effect hu).alike al
      rw [runHandler_succ n hi' hw', effect.phaseStep_eq hw', andThen_next]
      exact ih al' hr

/-- Settles O57: of two states alike at the fetch step every phase of the command keeps them alike. -/
theorem deadRegistersDoNotMatter : Obligations.DeadRegistersDoNotMatter := by
  intro s t s' live hi ha h
  have al : Alike s t := live.alike (by rw [hi]; rfl)
  rw [step_no_move ha] at h
  rw [step_no_move (live.agenda ▸ ha)]
  cases hw : waits s with
  | true =>
    obtain rfl : s = s' := by simpa [runCommand_waits hw] using h
    exact ⟨t, runCommand_waits (al.waits ▸ hw), live⟩
  | false =>
    have hi' : t.pc = .idle := live.pc ▸ hi
    rw [runCommand_eq, if_pos hi] at h
    obtain ⟨u, hu, hr⟩ := andThen_eq_next.1 h
    obtain ⟨v, effect, al'⟩ := (phaseStep_effect hu).alike al
    obtain ⟨t', ht, al''⟩ := runHandler_alike al' hr
    refine ⟨t', ?_, al''.toSameLive⟩
    rw [runCommand_eq, if_pos hi', effect.phaseStep_eq (al.waits ▸ hw), andThen_next, ht]

end Sys2Proof.Machine
end

section
/-! PROOFS. The Signal Channel as a memory (20_memory.md): reads consume and writes append (R58, R59), words
are shifted out in the order written (R64, R68), and the core reads and writes in phases of their own
(R65, R66). -/

namespace Sys2Proof.Machine

/-! ## The words and bytes of a trace -/

@[simp] theorem writtenWords_append (es fs : List Event) :
    writtenWords (es ++ fs) = writtenWords es ++ writtenWords fs := List.filterMap_append

@[simp] theorem writtenWords_tx (w : SymbolWord) : writtenWords [.tx w] = [w] := rfl

@[simp] theorem writtenWords_of_ne_tx {e : Event} (other : ∀ w, e ≠ .tx w) : writtenWords [e] = [] := by
  cases e with
  | tx w => exact absurd rfl (other w)
  | _ => rfl

/-! ## Moves outside the core, as the two buffers and the line see them -/

/-- A byte from the host reaches the received bytes or nothing. -/
theorem hostDrives_rx_only (b : Byte) (kept : Bool) (s : State) :
    ∃ rx, hostDrives b kept s = { s with chan := { s.chan with rx := rx } } := by
  unfold hostDrives
  split
  · exact ⟨_, rfl⟩
  · exact ⟨s.chan.rx, rfl⟩

/-- An enabled channel in Output mode shifts its oldest word out (R68). -/
theorem channelShifts_oldest {s : State} {w : SymbolWord} {rest : List SymbolWord}
    (he : s.chan.enabled = true) (hm : s.chan.mode = .output) (ht : s.chan.tx = w :: rest) :
    channelShifts s =
      { s with
        chan :=
          { s.chan with
            tx := rest
            line := s.chan.line ++ wordBits w
            mode := if endsFrame w then .input else .output } } := by
  simp [channelShifts, he, hm, ht]

/-- What a shift can do: nothing, or take the oldest word off an enabled channel in Output mode. -/
theorem channelShifts_cases (s : State) :
    channelShifts s = s ∨
      ∃ w rest, s.chan.enabled = true ∧ s.chan.mode = .output ∧ s.chan.tx = w :: rest := by
  cases ht : s.chan.tx with
  | nil => exact .inl (by simp [channelShifts, ht])
  | cons w rest =>
    by_cases on : s.chan.enabled = true ∧ s.chan.mode = .output
    · exact .inr ⟨w, rest, on.1, on.2, rfl⟩
    · exact .inl (by simpa [channelShifts, ht] using fun he hm => absurd ⟨he, hm⟩ on)

/-- The mode after a shift tells whether the word was the last of its frame (R68, log 15). -/
theorem mode_after_word_eq_input (w : SymbolWord) :
    (if endsFrame w then ChanMode.input else .output) = .input ↔ w.getLsbD 31 = false := by
  rw [← endsFrame_iff]
  cases endsFrame w <;> simp

/-! ## The order of the words on the line -/

/-- The line and then the transmit buffer hold the bits of the written words, in the order written. -/
def LineInOrder (s : State) : Prop :=
  s.chan.line ++ frameBits s.chan.tx = frameBits (writtenWords s.trace)

/-- A shift moves the bits of the oldest word from the front of the buffer to the end of the line. -/
theorem LineInOrder.channelShifts {s : State} (h : LineInOrder s) : LineInOrder (channelShifts s) := by
  obtain same | ⟨w, rest, he, hm, ht⟩ := channelShifts_cases s
  · rwa [same]
  · rw [channelShifts_oldest he hm ht]
    have split_off : s.chan.line ++ (wordBits w ++ frameBits rest) = frameBits (writtenWords s.trace) := by
      rw [← frameBits_cons, ← ht]; exact h
    exact (List.append_assoc ..).trans split_off

/-- Of the core steps only a `write` touches the transmit buffer, and it adds the same word to the buffer and
to the trace; `init` leaves the buffer alone where it drops no accepted word (log 18). -/
theorem PhaseEffect.lineInOrder {s t : State} (h : PhaseEffect s t) (keeps : s.params.txFlushOnInit = false)
    (hs : LineInOrder s) : LineInOrder t := by
  unfold LineInOrder at *
  cases h with
  | write f w => simp [← hs]
  | init => simpa [keeps] using hs
  | wait | probeBuild | originBuild | pollBuild | nothingToSend => exact hs
  | _ => simpa using hs

/-- Accepted words survive re-initialisation, and the line is in order. -/
def WordsInOrder (s : State) : Prop := s.params.txFlushOnInit = false ∧ LineInOrder s

theorem PhaseEffect.wordsInOrder {s t : State} (h : PhaseEffect s t) (hs : WordsInOrder s) :
    WordsInOrder t := by
  obtain ⟨keeps, inOrder⟩ := hs
  obtain ⟨params, -⟩ := h.extendsPast
  exact ⟨params ▸ keeps, h.lineInOrder keeps inOrder⟩

theorem WordsInOrder.hostDrives {s : State} (b : Byte) (kept : Bool) (h : WordsInOrder s) :
    WordsInOrder (hostDrives b kept s) := by
  obtain ⟨rx, eq⟩ := hostDrives_rx_only b kept s
  rw [eq]
  exact h

theorem WordsInOrder.channelShifts {s : State} (h : WordsInOrder s) : WordsInOrder (channelShifts s) := by
  obtain ⟨keeps, inOrder⟩ := h
  refine ⟨?_, inOrder.channelShifts⟩
  obtain ⟨c, eq, -⟩ := channelShifts_eq s
  rw [eq]
  exact keeps

/-- Settles O55: a core step that writes a word adds it to the trace and to the end of the buffer, a shift
moves its bits to the line, and nothing else touches line, buffer or written words. -/
theorem wordsLeaveInTheOrderWritten : Obligations.WordsLeaveInTheOrderWritten := by
  intro s t keeps inOrder h
  have step_keeps : WordsInOrder s → WordsInOrder t :=
    step_rel (R := fun s t => WordsInOrder s → WordsInOrder t) (fun _ => id)
      (fun h k hs => k (h hs)) (fun h => (phaseStep_effect h).wordsInOrder) (fun _ _ => id)
      (fun b k _ => .hostDrives b k) (fun _ => .channelShifts) (fun _ _ => id) h
  exact (step_keeps ⟨keeps, inOrder⟩).2

/-- Settles O42. -/
theorem channelShiftsFromBitZero : Obligations.ChannelShiftsFromBitZero := by
  intro s w rest he hm ht
  rw [channelShifts_oldest he hm ht]
  refine ⟨rfl, fun k hk => ?_, by simp, mode_after_word_eq_input w⟩
  simp [List.getElem?_append_right, wordBits_getElem? w hk]

/-! ## Reading phases and writing phases -/

/-- The events `es` of a core step from `s` go one way: bytes in, from a reading phase, or words out, from a
`tx` phase, or neither (R65). -/
def OneWay (s : State) (es : List Event) : Prop :=
  (readBytes es ≠ [] → reading s = true ∧ writtenWords es = []) ∧
  (writtenWords es ≠ [] → s.pc.phase = .tx ∧ readBytes es = [])

theorem OneWay.of_silent {s : State} {es : List Event} (hr : readBytes es = []) (hw : writtenWords es = []) :
    OneWay s es := ⟨absurd hr, absurd hw⟩

theorem OneWay.of_rx {s : State} (b : Byte) (h : reading s = true) : OneWay s [.rx b] :=
  ⟨fun _ => ⟨h, rfl⟩, absurd rfl⟩

theorem OneWay.of_tx {s : State} (w : SymbolWord) (h : s.pc.phase = .tx) : OneWay s [.tx w] :=
  ⟨absurd rfl, fun _ => ⟨h, rfl⟩⟩

/-- Settles O48: only `fetch` and `payload` add a byte, only `write` adds a word, and each adds one event. -/
theorem halfDuplexPhases : Obligations.HalfDuplexPhases := by
  intro s t h
  show ∃ es, t.trace = s.trace ++ es ∧ OneWay s es
  cases phaseStep_effect h with
  | wait | probeBuild | originBuild | pollBuild | nothingToSend =>
    exact ⟨[], (List.append_nil _).symm, .of_silent rfl rfl⟩
  | fetch b rest hp => exact ⟨_, rfl, .of_rx b (by simp [reading, hp])⟩
  | payload b rest p hr hp =>
    exact ⟨_, rfl, .of_rx b (by obtain ⟨hp, -⟩ | ⟨hp, -⟩ := hp <;> simp [reading, hp])⟩
  | write f w hf hp => exact ⟨_, rfl, .of_tx w (by rw [hp])⟩
  | _ => exact ⟨_, rfl, .of_silent rfl rfl⟩

/-- Settles O20. -/
theorem anUnacceptedWordIsWaitedFor : Obligations.AnUnacceptedWordIsWaitedFor := by
  intro s noMove hp hi ha
  rw [step_no_move noMove]
  exact runCommand_waits (by simp [waits, hp, hi, ha])

/-! ## One read and two writes -/

/-- Settles O41: a write leaves the channel accepting, so the second is accepted like the first. -/
theorem readsConsumeAndWritesAppend : Obligations.ReadsConsumeAndWritesAppend := by
  intro s w
  refine ⟨fun b rest hr => ⟨_, scRead8_some hr, rfl⟩, fun ha => ?_⟩
  exact ⟨_, _, scWrite32_some w ha, scWrite32_some w ha, by simp, by simp⟩

end Sys2Proof.Machine
end

section
/-! PROOFS. Command frames and the opcode map (30_encoding.md): decoding and encoding undo each other (R70 to
R74), Poll's payload bytes change nothing but their own two events (R72), and what the pair slots of a word
tell (R81, R145). -/

namespace Sys2Proof.Machine

/-! ## Frames: what `decode` answers for each opcode (R71, R73, R74) -/

theorem recognised_iff (b : Byte) :
    recognised b = true ↔ b = Config.opcProbe ∨ b = Config.opcOrigin ∨ b = Config.opcPoll := by
  simp [recognised, or_assoc]

theorem decode_probe (rest : List Byte) : decode (Config.opcProbe :: rest) = .frame .probe rest := rfl

theorem decode_origin (rest : List Byte) : decode (Config.opcOrigin :: rest) = .frame .origin rest := rfl

theorem decode_poll (p q : Byte) (rest : List Byte) :
    decode (Config.opcPoll :: p :: q :: rest) = .frame (.poll p q) rest := by
  have whole : ¬ (p :: q :: rest).length + 1 < frameLength Config.opcPoll := by
    simp [frameLength, Config.pollPayloadBytes]
  rw [decode, if_neg whole]
  rfl

theorem decode_poll_short {payload : List Byte} (h : payload.length < Config.pollPayloadBytes) :
    decode (Config.opcPoll :: payload) = .rejected (.payloadMissing payload.length) := by
  have short : payload.length + 1 < frameLength Config.opcPoll := by
    rw [frameLength, if_pos rfl]; omega
  rw [decode, if_pos short]

theorem decode_unrecognised {op : Byte} (h : recognised op = false) (rest : List Byte) :
    decode (op :: rest) = .frame (.recover op) rest := by
  obtain ⟨⟨noProbe, noOrigin⟩, noPoll⟩ := by simpa [recognised] using h
  simp [decode, frameLength, selects, noProbe, noOrigin, noPoll]

theorem decode_encode_append {i : Instr} (h : i.wellFormed = true) (rest : List Byte) :
    decode (encode i ++ rest) = .frame i rest := by
  cases i with
  | probe => exact decode_probe rest
  | origin => exact decode_origin rest
  | poll p q => exact decode_poll p q rest
  | recover op => exact decode_unrecognised (by simpa [Instr.wellFormed] using h) rest

/-- Settles O1: each of the four forms of a frame is told by its opcode byte. -/
theorem decodeOfEncodedFrame : Obligations.DecodeOfEncodedFrame :=
  fun _ rest h => decode_encode_append h rest

/-- Every byte sequence begins with a well-formed frame or is rejected: its first byte is a recognised opcode
or that of a RECOVER (R75). -/
theorem begins_with_frame_or_rejected (bs : List Byte) :
    (∃ i rest, i.wellFormed = true ∧ encode i ++ rest = bs) ∨ ∃ why, decode bs = .rejected why := by
  cases bs with
  | nil => exact .inr ⟨_, rfl⟩
  | cons b bs =>
    cases hb : recognised b with
    | false => exact .inl ⟨.recover b, bs, by simp [Instr.wellFormed, hb], rfl⟩
    | true =>
      obtain rfl | rfl | rfl := (recognised_iff b).1 hb
      · exact .inl ⟨.probe, bs, rfl, rfl⟩
      · exact .inl ⟨.origin, bs, rfl, rfl⟩
      · match bs with
        | [] | [_] => exact .inr ⟨_, decode_poll_short (by simp [Config.pollPayloadBytes])⟩
        | p :: q :: rest => exact .inl ⟨.poll p q, rest, rfl, rfl⟩

/-- Settles O2: the bytes are not rejected, so they are those of a well-formed frame, which is the frame that is
decoded. -/
theorem encodeOfDecodedFrame : Obligations.EncodeOfDecodedFrame := by
  intro bs rest i h
  obtain ⟨j, left, wf, rfl⟩ | ⟨why, rejected⟩ := begins_with_frame_or_rejected bs
  · obtain ⟨rfl, rfl⟩ : j = i ∧ left = rest := by simpa [decode_encode_append wf] using h
    exact ⟨wf, rfl⟩
  · simp [rejected] at h

/-- Settles O4: each frame is an instance of what `decode` answers for its opcode. -/
theorem writtenOutFramesDecode : Obligations.WrittenOutFramesDecode :=
  ⟨decode_probe [], decode_origin [], decode_poll 3 128 [], decode_unrecognised (by decide) [],
    decode_unrecognised (by decide) [], decode_unrecognised (by decide) [],
    decode_poll_short (payload := [3]) (by decide)⟩

/-! ## The opcode map (R74, R76) -/

/-- The command goes by the opcode alone (R71). -/
theorem selects_command (b : Byte) (following : List Byte) :
    (selects b following).command = (selects b []).command := by
  unfold selects
  simp only [apply_ite Instr.command]
  rfl

/-- Settles O3: since the bytes after the opcode do not matter, 256 cases are left. -/
theorem oneRowMatchesEachOpcode : Obligations.OneRowMatchesEachOpcode := by
  intro b following
  rw [selects_command]
  revert b
  decide +kernel

/-! ## Pair slots (R81, R139, R145) -/

/-- The enable bit of a pair slot: 1 in the slots of the bytes and in the slot of the end marker. -/
theorem symbolBit_enable (s : List Byte) (k slot : Nat) :
    symbolBit s k (2 * slot + 1) =
      (decide (2 * k + slot / 8 < s.length) || (2 * k + slot / 8 == s.length && slot % 8 == 0)) := by
  have pair : (2 * slot + 1) / 2 = slot := by omega
  by_cases h : 2 * k + slot / 8 < s.length <;> simp [symbolBit, pair, h]

/-- A pair slot whose enable bit is 0 holds no data bit. -/
theorem symbolBit_data_of_not_enabled {s : List Byte} {k slot : Nat}
    (h : symbolBit s k (2 * slot + 1) = false) : symbolBit s k (2 * slot) = false := by
  obtain ⟨noByte, noMarker⟩ := by simpa [symbolBit_enable] using h
  simpa [symbolBit, Nat.not_lt.2 noByte] using noMarker

/-- The last pair slot of a word is full exactly if the word holds two bytes. -/
theorem symbolBit_last (s : List Byte) (k : Nat) : symbolBit s k 31 = decide (2 * k + 1 < s.length) := by
  simpa using symbolBit_enable s k 15

/-- The last word of a frame is the one that holds fewer than two bytes (R136). -/
theorem succ_eq_symbolWordCount_iff {n k : Nat} (h : k < symbolWordCount n) :
    k + 1 = symbolWordCount n ↔ ¬ 2 * k + 1 < n := by
  have nonempty : n ≠ 0 := by rintro rfl; simp [symbolWordCount] at h
  rw [symbolWordCount, if_neg nonempty] at *
  omega

/-- Settles O40: bit 31 is the enable bit of the slot of the word's second byte, and of all words only the last
holds fewer than two bytes. -/
theorem pairSlotsAndFrameEnd : Obligations.PairSlotsAndFrameEnd := by
  intro s k w hw
  obtain ⟨hk, rfl⟩ := symbolEncode_getElem?_eq hw
  constructor
  · rw [endsFrame_iff, symbolWord_getLsbD s k (by decide), symbolBit_last, decide_eq_false_iff_not,
      symbolEncode_length, succ_eq_symbolWordCount_iff hk]
  · intro slot hslot
    rw [symbolWord_getLsbD s k (by omega), symbolWord_getLsbD s k (by omega)]
    exact symbolBit_data_of_not_enabled

/-! ## What a run does whatever happened before it (R17, log 3) -/

theorem dropReading_whatever_past (s : State) (past : List Event) :
    dropReading { s with trace := past } = { dropReading s with trace := past } := by
  cases h : s.nowIn <;> simp [dropReading, h]

/-- The events performed before a core step do not matter to it: its own come after them. -/
theorem PhaseEffect.whatever_past {s t : State} (h : PhaseEffect s t) :
    ∃ es, ∀ past, PhaseEffect { s with trace := past } { t with trace := past ++ es } := by
  have silent {t : State} (h : ∀ past, PhaseEffect { s with trace := past } { t with trace := past }) :
      ∃ es, ∀ past, PhaseEffect { s with trace := past } { t with trace := past ++ es } :=
    ⟨[], by simpa using h⟩
  cases h with
  | wait h => exact silent fun _ => .wait h
  | probeBuild hp => exact silent fun _ => .probeBuild hp
  | originBuild hp => exact silent fun _ => .originBuild hp
  | pollBuild bs hp hm hl => exact silent fun _ => .pollBuild bs hp hm hl
  | nothingToSend f hf hp => exact silent fun _ => .nothingToSend f hf hp
  | firstTime hp hv =>
    refine ⟨[.now (nextReading s)], fun past => ?_⟩
    have effect := PhaseEffect.firstTime (s := { s with trace := past }) hp hv
    rwa [dropReading_whatever_past] at effect
  | laterTime hp hv hle =>
    refine ⟨[.now (nextReading s)], fun past => ?_⟩
    have effect := PhaseEffect.laterTime (s := { s with trace := past }) hp hv hle
    rwa [dropReading_whatever_past] at effect
  | fetch b rest hp hr => exact ⟨[.rx b], fun _ => .fetch b rest hp hr⟩
  | payload b rest p hr hp => exact ⟨[.rx b], fun _ => .payload b rest p hr hp⟩
  | lookup hp => exact ⟨[.fetch s.frameR (rfsFetch s.params.rfs s.frameR)], fun _ => .lookup hp⟩
  | mode f hf hp hc => exact ⟨[.mode .output], fun _ => .mode f hf hp hc⟩
  | write f w hf hp hi ha hw => exact ⟨[.tx w], fun _ => .write f w hf hp hi ha hw⟩
  | probeDelay hp => exact ⟨[.wait s.params.probeDelayUs], fun _ => .probeDelay hp⟩
  | disable hp => exact ⟨[.disable], fun _ => .disable hp⟩
  | settle hp => exact ⟨[.wait s.params.recoverSettleUs], fun _ => .settle hp⟩
  | init hp => exact ⟨[.init .input], fun _ => .init hp⟩
  | enable hp => exact ⟨[.enable], fun _ => .enable hp⟩

/-- The events performed before a run do not matter to it: its own come after them. -/
theorem runHandler_whatever_past {n : Nat} {s t : State} (h : runHandler n s = .next t) :
    ∃ es, ∀ past, runHandler n { s with trace := past } = .next { t with trace := past ++ es } := by
  induction n generalizing s with
  | zero =>
    obtain rfl : s = t := by simpa using h
    exact ⟨[], fun past => by simp⟩
  | succ n ih =>
    by_cases hi : s.pc = .idle
    · obtain rfl : s = t := by simpa [runHandler_idle _ hi] using h
      exact ⟨[], fun past => by rw [List.append_nil]; exact runHandler_idle _ hi⟩
    cases hw : waits s with
    | true =>
      obtain rfl : s = t := by simpa [runHandler_waits _ hw] using h
      exact ⟨[], fun past => by rw [List.append_nil]; exact runHandler_waits _ hw⟩
    | false =>
      rw [runHandler_succ n hi hw] at h
      obtain ⟨u, hu, ht⟩ := andThen_eq_next.1 h
      obtain ⟨es, step⟩ := (phaseStep_effect hu).whatever_past
      obtain ⟨fs, run⟩ := ih ht
      refine ⟨es ++ fs, fun past => ?_⟩
      rw [← List.append_assoc]
      exact runHandler_step hi hw ((step past).phaseStep_eq hw) (run _)

/-! ## POLL from any state (R110) -/

/-- The payload reads take two bytes off the channel and perform their events, and nothing else (R111). -/
theorem exec_poll_payload (s : State) (a b p q : Byte) (rest : List Byte) :
    exec (.poll a b) { s with chan := { s.chan with rx := p :: q :: rest } } =
      runHandler (handlerFuel - 2)
        { s with
          pc := ⟨.respondingPoll, .time⟩
          chan := { s.chan with rx := rest }
          trace := s.trace ++ [.rx p, .rx q] } := by
  rw [exec_eq_run, dispatch_eq_entryPc, entryPc]
  refine (runHandler_succ (handlerFuel - 1) (by simp) (waits_of_read rfl (by simp))).trans ?_
  rw [phaseStep_pay0 rfl, payloadPhase_eq, andThen_next]
  refine (runHandler_succ (handlerFuel - 2) (by simp) (waits_of_read rfl (by simp))).trans ?_
  rw [phaseStep_pay1 rfl, payloadPhase_eq, andThen_next]
  simp only [List.append_assoc, List.singleton_append]

/-- A Poll that reads a time before the anchor is refused (R128). -/
theorem runHandler_time_refused {n : Nat} {s : State} (hp : s.pc = ⟨.respondingPoll, .time⟩)
    (early : ReadsBeforeAnchor s) : runHandler (n + 1) s = .refused .timeBeforeAnchor := by
  rw [runHandler_succ n (by simp [hp]) (waits_false hp (by decide)), phaseStep_time hp,
    pollTime_eq_refused.2 ⟨early.1, early.2, rfl⟩, andThen_refused]

@[simp] theorem symbolWordCount_record : symbolWordCount 10 = 6 := rfl

/-- Poll's `lookup` and `build` put the record into RESP and its words into WORDS (R113). -/
theorem runHandler_lookup_build {n : Nat} {s : State} (hp : s.pc = ⟨.respondingPoll, .lookup⟩) :
    runHandler (n + 2) s = runHandler n
      { s with
        pc := ⟨.respondingPoll, .mode⟩
        resp := memWrite s.resp 0 (recordBytesOf (rfsFetch s.params.rfs s.frameR))
        respLen := 10
        words := memWrite s.words 0 (symbolEncode (recordBytesOf (rfsFetch s.params.rfs s.frameR)))
        wordCount := 6
        trace := s.trace ++ [.fetch s.frameR (rfsFetch s.params.rfs s.frameR)] } := by
  rw [runHandler_succ _ (by simp [hp]) (waits_false hp (by decide)), phaseStep_lookup hp, pollLookup_eq,
    andThen_next, hp]
  refine (runHandler_succ n (by simp) (waits_false rfl (by simp))).trans ?_
  rw [phaseStep_pollBuild rfl,
    pollBuild_eq_next.2 ⟨_, read_record_just_loaded .., symbolWordCount_le (by simp), rfl⟩, andThen_next]
  simp

/-- TRANSMIT is over, or it is under way and every word that it counts is written. -/
def TransmitsWritten (s : State) : Prop :=
  s.pc = .idle ∨
    (∃ f : Fsm, f.responding ∧ (s.pc = ⟨f, .mode⟩ ∨ s.pc = ⟨f, .tx⟩)) ∧
      ∀ k < s.wordCount, (Memory.read s.words k).isSome = true

theorem TransmitsWritten.phaseStep {s : State} (h : TransmitsWritten s) (hi : s.pc ≠ .idle) :
    ∃ t, phaseStep s = .next t ∧ TransmitsWritten t := by
  obtain ⟨⟨f, hf, hp | hp⟩, written⟩ := h.resolve_left hi
  · rw [phaseStep_mode hf hp, modePhase_eq]
    split
    · exact ⟨_, rfl, .inl rfl⟩
    · exact ⟨_, rfl, .inr ⟨⟨f, hf, .inr (by rw [hp])⟩, written⟩⟩
  · rw [phaseStep_tx hf hp]
    by_cases more : s.txIdx < s.wordCount
    · cases ha : accepts s.chan with
      | true =>
        obtain ⟨w, hw⟩ := Option.isSome_iff_exists.1 (written _ more)
        refine ⟨_, txPhase_write more hw ha, ?_⟩
        split
        · exact .inr ⟨⟨f, hf, .inr hp⟩, written⟩
        · exact .inl rfl
      | false => exact ⟨s, txPhase_eq_next.2 (.inr (.inl ⟨more, ha, written _ more, rfl⟩)), h⟩
    · exact ⟨_, txPhase_eq_next.2 (.inr (.inr ⟨more, rfl⟩)), .inl rfl⟩

theorem TransmitsWritten.runHandler_completes {n : Nat} {s : State} (h : TransmitsWritten s) :
    ∃ t, runHandler n s = .next t := by
  induction n generalizing s with
  | zero => exact ⟨s, rfl⟩
  | succ n ih =>
    by_cases hi : s.pc = .idle
    · exact ⟨s, runHandler_idle _ hi⟩
    cases hw : waits s with
    | true => exact ⟨s, runHandler_waits _ hw⟩
    | false =>
      obtain ⟨u, hu, h'⟩ := h.phaseStep hi
      rw [runHandler_succ n hi hw, hu]
      exact ih h'

/-- From any state, a Poll that reads no time before the anchor completes or waits: it loads a whole record
before it encodes it, and encodes it before it writes (R40). -/
theorem runHandler_time_completes {n : Nat} {s : State} (hp : s.pc = ⟨.respondingPoll, .time⟩)
    (onTime : ¬ ReadsBeforeAnchor s) : ∃ t, runHandler (n + 3) s = .next t := by
  obtain ⟨u, hu⟩ | ⟨-, early⟩ := pollTime_completes_or_refuses s
  · have atLookup : u.pc = ⟨.respondingPoll, .lookup⟩ := by
      obtain ⟨-, rfl⟩ | ⟨-, -, rfl⟩ := pollTime_eq_next.1 hu <;> simp [hp]
    rw [runHandler_succ _ (by simp [hp]) (waits_false hp (by decide)), phaseStep_time hp, hu, andThen_next,
      runHandler_lookup_build atLookup]
    refine TransmitsWritten.runHandler_completes (.inr ⟨⟨_, .inr (.inr rfl), .inl rfl⟩, ?_⟩)
    simpa using isSome_read_memWrite u.words (symbolEncode (recordBytesOf _))
  · exact absurd early onTime

/-- Settles O14: after the payload reads two runs differ in nothing but their two events, which no later phase
reads. -/
theorem pollPayloadIsIrrelevant : Obligations.PollPayloadIsIrrelevant := by
  intro s a b p q p' q' rest
  rw [exec_poll_payload, exec_poll_payload]
  by_cases early : ReadsBeforeAnchor s
  · exact .inr ⟨_, runHandler_time_refused rfl early, runHandler_time_refused rfl early⟩
  · obtain ⟨t, ht⟩ := runHandler_time_completes (n := handlerFuel - 5)
      (s := { s with pc := ⟨.respondingPoll, .time⟩, chan := { s.chan with rx := rest } }) rfl early
    obtain ⟨es, run⟩ := runHandler_whatever_past ht
    exact .inl ⟨t, es, (run _).trans (by simp), (run _).trans (by simp)⟩

end Sys2Proof.Machine
end

section
/-! PROOFS. The dispatcher (40_dispatcher.md): FETCH and DISPATCH go by the opcode (R90, R91), a step runs the
decoded frame (R92), and a step in which a byte is missing waits and is taken up again (R188). -/

namespace Sys2Proof.Machine

/-! ## FETCH and DISPATCH (R90, R91) -/

/-- Settles O5: the effect of `fetch`, with the entry pc read off the opcode. -/
theorem dispatchByOpcodeValue : Obligations.DispatchByOpcodeValue := by
  intro s b rest hp hr
  rw [← entryPc_selects b rest]
  exact (PhaseEffect.fetch b rest hp hr).phaseStep_eq (waits_of_read hr (by simp [hp]))

/-! ## One command a step (R92, R188) -/

/-- A frame that is decoded is the one that DISPATCH selects. -/
theorem eq_selects_of_decode {b : Byte} {following left : List Byte} {i : Instr}
    (h : decode (b :: following) = .frame i left) : i = selects b following := by
  rw [decode] at h
  split at h
  · simp at h
  · exact (Decoded.frame.inj h).1.symm

/-- With an opcode received, a command is the meaning of the instruction it selects, after FETCH. -/
theorem runCommand_read {s : State} {b : Byte} {following : List Byte} (hp : s.pc = .idle)
    (hr : s.chan.rx = b :: following) :
    runCommand s = exec (selects b following)
      { s with
        opcode := b
        chan := { s.chan with rx := following }
        trace := s.trace ++ [.rx b] } := by
  rw [runCommand_eq, if_pos hp, phaseStep_fetch hp, fetchPhase_eq, hr, exec_eq_run]
  exact andThen_next ..

/-- Settles O6. -/
theorem stepRunsTheDecodedFrame : Obligations.StepRunsTheDecodedFrame := by
  intro s b following left i hp noMove hr hd
  rw [step_no_move noMove, runCommand_read hp hr, eq_selects_of_decode hd]

/-- Settles O7: the three places are those of the reading phases (R65). -/
theorem silentHostLeavesTheStateAsItIs : Obligations.SilentHostLeavesTheStateAsItIs := by
  intro s noMove silent hp
  have atRead : reading s = true := by simpa [reading, or_assoc] using hp
  rw [step_no_move noMove]
  exact runCommand_waits (by simp [waits, atRead, silent])

/-! ## Fuel beyond what a handler needs -/

theorem andThen_congr {x : StepResult} {f g : State → StepResult}
    (h : ∀ u, x = .next u → f u = g u) : andThen x f = andThen x g := by
  cases x with
  | next u => exact h u rfl
  | fault | refused => rfl

/-- A run of `n + k` phases is a run of `n` and then one of `k`. -/
theorem runHandler_add (n k : Nat) (s : State) :
    runHandler (n + k) s = andThen (runHandler n s) (runHandler k) := by
  induction n generalizing s with
  | zero => rw [Nat.zero_add, runHandler_zero, andThen_next]
  | succ n ih =>
    rw [Nat.add_right_comm]
    by_cases hi : s.pc = .idle
    · simp only [runHandler_idle _ hi, andThen_next]
    cases hw : waits s with
    | true => simp only [runHandler_waits _ hw, andThen_next]
    | false =>
      rw [runHandler_succ _ hi hw, runHandler_succ _ hi hw, andThen_assoc]
      exact andThen_congr fun u _ => ih u

/-- With fuel for the steps left, more fuel changes nothing. -/
theorem runHandler_add_of_phasesLeft_le {n : Nat} {s : State} (hc : s.wordCount ≤ Config.maxWords)
    (hl : phasesLeft s ≤ n) (k : Nat) : runHandler (n + k) s = runHandler n s := by
  rw [runHandler_add]
  cases h : runHandler n s with
  | next t =>
    obtain hi | hw := runHandler_ends hc (.inr hl) h
    · exact runHandler_idle k hi
    · exact runHandler_waits k hw
  | fault | refused => rfl

theorem pollTime_next_pc {s t : State} (h : pollTime s = .next t) : t.pc = ⟨s.pc.fsm, .lookup⟩ := by
  obtain ⟨-, rfl⟩ | ⟨-, -, rfl⟩ := pollTime_eq_next.1 h <;> rfl

theorem phasesLeft_pollMode {s : State} (hp : s.pc = ⟨.respondingPoll, .mode⟩) :
    phasesLeft s = 1 + Config.maxWords := by
  simp [phasesLeft, hp, Pc.phasesOf]

/-- From Poll's `time` phase on ten phases are enough in every state: `build` sets the number of words to six,
whatever it was. -/
theorem runHandler_time_add {s : State} (hp : s.pc = ⟨.respondingPoll, .time⟩) (k : Nat) :
    runHandler (10 + k) s = runHandler 10 s := by
  have first (n : Nat) : runHandler (n + 1) s = andThen (pollTime s) (runHandler n) := by
    rw [runHandler_succ n (by simp [hp]) (waits_false hp (by decide)), phaseStep_time hp]
  rw [Nat.add_right_comm 9 1 k, first, first 9]
  refine andThen_congr fun u hu => ?_
  have atLookup : u.pc = ⟨.respondingPoll, .lookup⟩ := by rw [pollTime_next_pc hu, hp]
  rw [Nat.add_right_comm 7 2 k, runHandler_lookup_build atLookup, runHandler_lookup_build (n := 7) atLookup]
  exact runHandler_add_of_phasesLeft_le (show 6 ≤ Config.maxWords by decide) (phasesLeft_pollMode rfl).le k

/-! ## POLL, taken up where it waited (R188) -/

theorem step_in_handler {s : State} (noMove : s.agenda = []) (hi : s.pc ≠ .idle) :
    step s = runHandler handlerFuel s := by
  rw [step_no_move noMove, runCommand_eq, if_neg hi]

theorem runHandler_pay1 {n : Nat} {s : State} {q : Byte} {rest : List Byte}
    (hp : s.pc = ⟨.respondingPoll, .pay1⟩) (hr : s.chan.rx = q :: rest) :
    runHandler (n + 1) s = runHandler n
      { s with
        pc := ⟨.respondingPoll, .time⟩
        chan := { s.chan with rx := rest }
        trace := s.trace ++ [.rx q] } := by
  have effect := PhaseEffect.payload q rest .time hr (.inr ⟨hp, rfl⟩)
  have hw := waits_of_read hr (by simp [hp])
  rw [runHandler_succ n (by simp [hp]) hw, effect.phaseStep_eq hw, andThen_next]

/-- Settles O19: `pay0` is where DISPATCH puts a POLL; a run from `pay1` comes to the same `time` phase as one
that never waited, with one phase of fuel to spare. -/
theorem pollResumesWhereItWaited : Obligations.PollResumesWhereItWaited := by
  intro s a b p q rest noMove
  constructor
  · rw [exec_eq_run]
    exact step_in_handler noMove (by simp)
  · refine Eq.trans (step_in_handler noMove (by simp)) ?_
    rw [exec_poll_payload]
    refine (runHandler_pay1 (n := handlerFuel - 1) rfl rfl).trans ?_
    simp only [List.append_assoc, List.singleton_append]
    exact runHandler_time_add rfl 1

end Sys2Proof.Machine
end

section
/-! PROOFS. PROBE and ORIGIN (41_probe_origin.md): each builds its constant response and comes to TRANSMIT, which
sends it on a channel that takes words (R103), and which, completed or waiting, writes nothing but the pc, `tx_idx`
and the channel's transmit side (R106). -/

namespace Sys2Proof.Machine

/-! ## From DISPATCH to TRANSMIT (R100, R104) -/

/-- The state in which TRANSMIT of the response `bs` begins, after a handler entered in `s` has performed `es`. -/
def responseBuilt (f : Fsm) (bs : List Byte) (es : List Event) (s : State) : State :=
  { s with
    pc := ⟨f, .mode⟩
    resp := memWrite s.resp 0 bs
    respLen := bs.length
    words := memWrite s.words 0 (symbolEncode bs)
    wordCount := symbolWordCount bs.length
    trace := s.trace ++ es }

theorem exec_probe_eq (s : State) :
    exec .probe s = runHandler (handlerFuel - 2)
      (responseBuilt .respondingProbe probePayload [.wait s.params.probeDelayUs] s) := by
  rw [exec_eq_run, dispatch_eq_entryPc, entryPc]
  refine (runHandler_succ (handlerFuel - 1) (by simp) (waits_false rfl (by simp))).trans ?_
  rw [phaseStep_probeBuild rfl, probeBuild_eq, andThen_next]
  refine (runHandler_succ (handlerFuel - 2) (by simp) (waits_false rfl (by simp))).trans ?_
  rw [phaseStep_probeDelay rfl, probeDelay_eq, andThen_next]
  rfl

theorem exec_origin_eq (s : State) :
    exec .origin s = runHandler (handlerFuel - 1) (responseBuilt .respondingOrigin originPayload [] s) := by
  rw [exec_eq_run, dispatch_eq_entryPc, entryPc]
  refine (runHandler_succ (handlerFuel - 1) (by simp) (waits_false rfl (by simp))).trans ?_
  rw [phaseStep_originBuild rfl, originBuild_eq, andThen_next, responseBuilt, List.append_nil]
  rfl

/-! ## TRANSMIT on a channel that takes words (R103) -/

/-- A response that is built goes out whole on an enabled channel that takes words. -/
theorem runHandler_responseBuilt {f : Fsm} (hf : f.responding) {bs : List Byte} (hne : bs.length ≠ 0)
    (es : List Event) {n : Nat} (hn : symbolWordCount bs.length < n) {s : State}
    (he : s.chan.enabled = true) (hr : s.chan.txReady = true) :
    runHandler n (responseBuilt f bs es s) = .next
      { s with
        pc := .idle
        resp := memWrite s.resp 0 bs
        respLen := bs.length
        words := memWrite s.words 0 (symbolEncode bs)
        wordCount := symbolWordCount bs.length
        txIdx := symbolWordCount bs.length
        chan := { s.chan with mode := .output, tx := s.chan.tx ++ symbolEncode bs }
        trace := s.trace ++ (es ++ .mode .output :: (symbolEncode bs).map .tx) } := by
  have some_word : symbolEncode bs ≠ [] := by
    rw [← List.length_pos_iff, symbolEncode_length]
    exact symbolWordCount_pos hne
  rw [← List.append_assoc]
  exact runHandler_transmit hf rfl some_word (symbolEncode_length bs) he hr
    (memRead_memWrite ..) (by simpa using hn)

theorem symbolEncode_probePayload : symbolEncode probePayload = [0xAAAAEBAA, 0x0003FAAA] := by decide +kernel

theorem symbolEncode_originPayload :
    symbolEncode originPayload =
      [0xAAABAAAA, 0xAAABAAAB, 0xAAABAAAB, 0xAAAAAAAA, 0xAAAAAAAA, 0x00000003] := by decide +kernel

/-- Settles O8: PROBE builds its response, delays (D23) and transmits it. -/
theorem probeAnswersItsTwoWords : Obligations.ProbeAnswersItsTwoWords := by
  intro s he hr
  rw [exec_probe_eq, runHandler_responseBuilt (.inl rfl) (by decide) _ (by decide) he hr,
    symbolEncode_probePayload]
  rfl

/-- Settles O9: ORIGIN builds its response and transmits it at once. -/
theorem originAnswersItsSixWords : Obligations.OriginAnswersItsSixWords := by
  intro s he hr
  rw [exec_origin_eq, runHandler_responseBuilt (.inr (.inl rfl)) (by decide) _ (by decide) he hr,
    symbolEncode_originPayload]
  rfl

/-! ## What TRANSMIT leaves alone (R106) -/

/-- From `s` to `t` nothing has changed but the pc, `tx_idx`, the trace and the channel's mode and transmit
buffer. -/
def TransmitsOnly (s t : State) : Prop :=
  ∃ p i es m ws, t =
    { s with pc := p, txIdx := i, trace := es, chan := { s.chan with mode := m, tx := ws } }

theorem TransmitsOnly.refl (s : State) : TransmitsOnly s s := ⟨_, _, _, _, _, rfl⟩

/-- A core step of TRANSMIT, whatever the channel accepts. -/
theorem TransmitsOnly.phaseStep {s t u : State} (h : TransmitsOnly s t) (ht : TransmitsWritten t)
    (hi : t.pc ≠ .idle) (hu : phaseStep t = .next u) : TransmitsOnly s u := by
  obtain ⟨p, i, es, m, ws, rfl⟩ := h
  obtain ⟨⟨f, hf, hp | hp⟩, -⟩ := ht.resolve_left hi
  · rw [phaseStep_mode hf hp, modePhase_eq] at hu
    split at hu <;> obtain rfl := Host.Outcome.next.inj hu <;> exact ⟨_, _, _, _, _, rfl⟩
  · rw [phaseStep_tx hf hp] at hu
    obtain ⟨-, -, w, -, rfl⟩ | ⟨-, -, -, rfl⟩ | ⟨-, rfl⟩ := txPhase_eq_next.1 hu <;>
      exact ⟨_, _, _, _, _, rfl⟩

theorem TransmitsWritten.runHandler_transmitsOnly {n : Nat} {s t : State} (hs : TransmitsWritten s)
    (h : runHandler n s = .next t) : TransmitsOnly s t := by
  refine (runHandler_keeps (P := fun u => TransmitsWritten u ∧ TransmitsOnly s u) ?phase ⟨hs, .refl s⟩ h).2
  case phase =>
    rintro u v ⟨hu, only⟩ hi hv
    obtain ⟨v', hv', written⟩ := hu.phaseStep hi
    obtain rfl : v' = v := Host.Outcome.next.inj (hv'.symm.trans hv)
    exact ⟨written, only.phaseStep hu hi hv⟩

theorem transmitsWritten_responseBuilt {f : Fsm} (hf : f.responding) (bs : List Byte) (es : List Event)
    (s : State) : TransmitsWritten (responseBuilt f bs es s) :=
  .inr ⟨⟨f, hf, .inl rfl⟩, fun k hk => isSome_read_memWrite _ _ k (by simpa [responseBuilt] using hk)⟩

/-- PROBE and ORIGIN both come to TRANSMIT with a response of the length given. -/
theorem exec_builds_response {i : Instr} {n : Nat} (hi : i = .probe ∧ n = 3 ∨ i = .origin ∧ n = 10)
    (s : State) :
    ∃ f bs es k, Fsm.responding f ∧ bs.length = n ∧ symbolWordCount bs.length = n / 2 + 1 ∧
      exec i s = runHandler k (responseBuilt f bs es s) := by
  obtain ⟨rfl, rfl⟩ | ⟨rfl, rfl⟩ := hi
  · exact ⟨_, probePayload, _, _, .inl rfl, rfl, rfl, exec_probe_eq s⟩
  · exact ⟨_, originPayload, _, _, .inr (.inl rfl), rfl, rfl, exec_origin_eq s⟩

theorem read_memWrite_beyond {w : Nat} (m : Memory w) (vs : List (BitVec w)) {a : Nat} (h : vs.length ≤ a) :
    Memory.read (memWrite m 0 vs) a = Memory.read m a := by
  rw [read_memWrite, if_neg (by omega)]

/-- Settles O21: up to TRANSMIT only the two stores, their counts, the pc and the trace are written, and TRANSMIT
leaves the stores alone. -/
theorem probeAndOriginFrame : Obligations.ProbeAndOriginFrame := by
  intro i n s t hi h
  obtain ⟨f, bs, es, k, hf, hlen, hcount, hrun⟩ := exec_builds_response hi s
  rw [hrun] at h
  obtain ⟨p, j, es', m, ws, rfl⟩ := (transmitsWritten_responseBuilt hf bs es s).runHandler_transmitsOnly h
  have resp_kept : ∀ a, n ≤ a → Memory.read (memWrite s.resp 0 bs) a = Memory.read s.resp a :=
    fun a ha => read_memWrite_beyond _ _ (by omega)
  have words_kept : ∀ a, n / 2 + 1 ≤ a →
      Memory.read (memWrite s.words 0 (symbolEncode bs)) a = Memory.read s.words a :=
    fun a ha => read_memWrite_beyond _ _ (by rw [symbolEncode_length]; omega)
  exact ⟨rfl, rfl, rfl, rfl, rfl, rfl, rfl, rfl, rfl, rfl, rfl, rfl, rfl, rfl, rfl, resp_kept, words_kept⟩

end Sys2Proof.Machine
end

section
/-! PROOFS. POLL (42_poll.md): it waits for its payload (R111), samples the time once and answers the record of the
frame that SYNC reports, unchanged (R112, R113, R120), and, completed or waiting, writes nothing else (R116, R121).
And the default replay, which answers what was recorded and beyond that the neutral record (R118). -/

namespace Sys2Proof.Machine

/-! ## The Replay Frame Source and the record in RESP (R113, R118) -/

theorem recordBytesOf_eq_toList (r : Record) : recordBytesOf r = r.toList :=
  List.ext_getElem? (recordBytesOf_getElem? r)

theorem recordBytesOf_neutralRecord : recordBytesOf neutralRecord = originPayload := by decide

/-- Settles O31. -/
theorem replayIsNeutralPastItsEnd : Obligations.ReplayIsNeutralPastItsEnd := by
  intro p recorded idx
  refine ⟨rfl, fun r recordedAt => ?_, fun beyond => ?_⟩
  · rw [loadReplay, rfsFetch_recorded recordedAt, recordBytesOf_eq_toList]
  · rw [loadReplay, rfsFetch_beyond beyond, recordBytesOf_neutralRecord]
    rfl

/-- Settles O32: the lookup writes the bytes of the record in index order from index 0 on. -/
theorem pollTakesTheRecordUnchanged : Obligations.PollTakesTheRecordUnchanged := by
  intro s
  refine ⟨_, pollLookup_eq s, rfl, fun k => ?_, rfl⟩
  rw [read_memWrite, if_pos ⟨Nat.zero_le _, by simp⟩, recordBytesOf_eq_toList]
  simp [Vector.get]

/-! ## The payload reads (R111) -/

/-- Either payload read drops the oldest byte, performs its event and goes to the next phase. -/
theorem runHandler_payload {n : Nat} {s : State} {b : Byte} {rest : List Byte} {p : Phase}
    (hr : s.chan.rx = b :: rest)
    (hp : s.pc = ⟨.respondingPoll, .pay0⟩ ∧ p = .pay1 ∨ s.pc = ⟨.respondingPoll, .pay1⟩ ∧ p = .time) :
    runHandler (n + 1) s = runHandler n
      { s with
        pc := ⟨.respondingPoll, p⟩
        chan := { s.chan with rx := rest }
        trace := s.trace ++ [.rx b] } := by
  have in_handler : s.pc ≠ .idle ∧ s.pc.phase ≠ .tx := by obtain ⟨hp, -⟩ | ⟨hp, -⟩ := hp <;> simp [hp]
  have ready := waits_of_read hr in_handler.2
  rw [runHandler_succ n in_handler.1 ready, (PhaseEffect.payload b rest p hr hp).phaseStep_eq ready, andThen_next]

/-- Settles O15: without a byte the run stops where DISPATCH puts a POLL, and with one it stops a phase later. -/
theorem pollWaitsForItsPayload : Obligations.PollWaitsForItsPayload := by
  intro s a b p
  rw [exec_eq_run, dispatch_eq_entryPc, entryPc]
  constructor
  · intro none_received
    exact runHandler_waits _ (by simp [waits, reading, none_received])
  · intro one_received
    refine Eq.trans (runHandler_payload (n := handlerFuel - 1) one_received (.inl ⟨rfl, rfl⟩)) ?_
    exact runHandler_waits _ (by simp [waits, reading])

/-- The state in which a POLL entered in `s` begins its `time` phase, after it has read `p` and `q`. -/
def payloadRead (p q : Byte) (rest : List Byte) (s : State) : State :=
  { s with
    pc := ⟨.respondingPoll, .time⟩
    chan := { s.chan with rx := rest }
    trace := s.trace ++ [.rx p, .rx q] }

/-- The state in which TRANSMIT of a POLL begins, whose `time` phase ended in `s`. -/
def recordBuilt (s : State) : State :=
  responseBuilt .respondingPoll (recordBytesOf (rfsFetch s.params.rfs s.frameR))
    [.fetch s.frameR (rfsFetch s.params.rfs s.frameR)] s

/-- A POLL that has its payload: the `time` phase decides, and the record it leads to is built. -/
theorem exec_poll_eq {s : State} {p q : Byte} {rest : List Byte} (hr : s.chan.rx = p :: q :: rest) (a b : Byte) :
    exec (.poll a b) s = andThen (pollTime (payloadRead p q rest s)) fun u =>
      runHandler (handlerFuel - 5) (recordBuilt u) := by
  have received := exec_poll_payload s a b p q rest
  rw [← hr] at received
  refine received.trans ((runHandler_succ _ (by simp) (waits_false rfl (by simp))).trans ?_)
  rw [phaseStep_time rfl]
  refine andThen_congr fun u hu => ?_
  refine (runHandler_lookup_build (n := handlerFuel - 5) (pollTime_next_pc hu)).trans ?_
  simp [recordBuilt, responseBuilt]

/-! ## The answer on a channel that takes words (R110, R120, R123) -/

theorem runHandler_recordBuilt {s : State} (he : s.chan.enabled = true) (hr : s.chan.txReady = true) :
    runHandler (handlerFuel - 5) (recordBuilt s) = .next
      { s with
        pc := .idle
        resp := memWrite s.resp 0 (recordBytesOf (rfsFetch s.params.rfs s.frameR))
        respLen := 10
        words := memWrite s.words 0 (symbolEncode (recordBytesOf (rfsFetch s.params.rfs s.frameR)))
        wordCount := 6
        txIdx := 6
        chan :=
          { s.chan with
            mode := .output
            tx := s.chan.tx ++ symbolEncode (recordBytesOf (rfsFetch s.params.rfs s.frameR)) }
        trace := s.trace ++
          (.fetch s.frameR (rfsFetch s.params.rfs s.frameR) :: .mode .output ::
            (symbolEncode (recordBytesOf (rfsFetch s.params.rfs s.frameR))).map .tx) } := by
  rw [recordBuilt, runHandler_responseBuilt (.inr (.inr rfl)) (by simp) _ (by rw [recordBytesOf_length]; decide) he hr]
  simp

/-- The payload reads take no reading of the time (R112). -/
theorem dropReading_payloadRead (p q : Byte) (rest : List Byte) (s : State) :
    dropReading (payloadRead p q rest s) = payloadRead p q rest (dropReading s) := by
  cases h : s.nowIn <;> simp [dropReading, payloadRead, h]

/-- Settles O10: SYNC takes its first branch. -/
theorem firstPollReportsFrameZero : Obligations.FirstPollReportsFrameZero := by
  rintro s a b p q rest _ _ _ he htx hr unset rfl rfl rfl
  rw [exec_poll_eq hr]
  refine andThen_eq_next.2 ⟨_, pollTime_eq_next.2 (.inl ⟨unset, rfl⟩), ?_⟩
  rw [dropReading_payloadRead, runHandler_recordBuilt (by simpa [payloadRead]) (by simpa [payloadRead])]
  simp [payloadRead, nextReading]

/-- The frame computation does not wrap (R125). -/
theorem frameOf_toNat (d : TimeUs) : (frameOf d).toNat = d.toNat * 2997 / 50000000 := by
  have small : d.toNat < 2 ^ 64 := d.isLt
  rw [frameOf, frameNum, frameDen, BitVec.toNat_ofNat]
  exact Nat.mod_eq_of_lt (show _ < 2 ^ 64 by omega)

/-- A frame that is the floor of the elapsed time over the time of a frame is the one SYNC reports (R123). -/
theorem eq_frameOf_elapsed {now anchor : TimeUs} {f : FrameIdx} (hle : anchor ≤ now)
    (hf : f.toNat = (now.toNat - anchor.toNat) * 2997 / 50000000) : f = frameOf (now - anchor) :=
  BitVec.eq_of_toNat_eq (by rw [frameOf_toNat, BitVec.toNat_sub_of_le hle, hf])

/-- Settles O11: SYNC takes its second branch. -/
theorem laterPollReportsTheElapsedFrame : Obligations.LaterPollReportsTheElapsedFrame := by
  rintro s a b p q rest _ f _ _ he htx hr anchored rfl hle hf rfl rfl
  obtain rfl := eq_frameOf_elapsed hle hf
  rw [exec_poll_eq hr]
  refine andThen_eq_next.2 ⟨_, pollTime_eq_next.2 (.inr ⟨anchored, hle, rfl⟩), ?_⟩
  rw [dropReading_payloadRead, runHandler_recordBuilt (by simpa [payloadRead]) (by simpa [payloadRead])]
  simp [payloadRead, nextReading]

/-! ## What POLL leaves alone (R116, R121) -/

theorem dropReading_eq (s : State) :
    dropReading s = { s with nowIn := (dropReading s).nowIn, nowDraws := (dropReading s).nowDraws } := by
  unfold dropReading
  split <;> rfl

/-- The `time` phase writes its two registers, the anchor, the pc, the trace and the readings, and a set anchor is
written with what it was. -/
theorem pollTime_writes {s t : State} (h : pollTime s = .next t) :
    ∃ p now f c v ins n es, t =
      { s with
        pc := p, nowR := now, frameR := f, anchor := c, anchorValid := v, nowIn := ins, nowDraws := n, trace := es } ∧
      (s.anchorValid = true → v = true ∧ c = s.anchor) := by
  obtain ⟨unset, rfl⟩ | ⟨anchored, -, rfl⟩ := pollTime_eq_next.1 h <;> rw [dropReading_eq]
  · exact ⟨_, _, _, _, _, _, _, _, rfl, by simp [unset]⟩
  · exact ⟨_, _, _, _, _, _, _, _, rfl, fun _ => ⟨anchored, rfl⟩⟩

/-- All that a POLL can do: it waits for its payload, or it goes through `time` and the record to TRANSMIT. -/
theorem exec_poll_cases {s t : State} {a b : Byte} (h : exec (.poll a b) s = .next t) :
    (∃ pc rx es, t = { s with pc := pc, chan := { s.chan with rx := rx }, trace := es }) ∨
      ∃ p q rest u, pollTime (payloadRead p q rest s) = .next u ∧ TransmitsOnly (recordBuilt u) t := by
  have waiting := pollWaitsForItsPayload s a b
  match hr : s.chan.rx with
  | [] =>
    obtain rfl := Host.Outcome.next.inj (((waiting 0).1 hr).symm.trans h)
    exact .inl ⟨_, _, _, rfl⟩
  | [p] =>
    obtain rfl := Host.Outcome.next.inj (((waiting p).2 hr).symm.trans h)
    exact .inl ⟨_, _, _, rfl⟩
  | p :: q :: rest =>
    rw [exec_poll_eq hr] at h
    obtain ⟨u, hu, hrun⟩ := andThen_eq_next.1 h
    have written : TransmitsWritten (recordBuilt u) := transmitsWritten_responseBuilt (.inr (.inr rfl)) _ _ u
    exact .inr ⟨p, q, rest, u, hu, written.runHandler_transmitsOnly hrun⟩

/-- Settles O22: neither the waits nor `time` nor TRANSMIT write the stores, and the record and its words reach no
further than ten bytes and six words. -/
theorem pollFrame : Obligations.PollFrame := by
  intro a b s t h
  obtain ⟨_, _, _, rfl⟩ | ⟨p, q, rest, u, hu, sent⟩ := exec_poll_cases h
  · exact ⟨rfl, rfl, rfl, rfl, rfl, rfl, rfl, rfl, fun anchored => ⟨anchored, rfl⟩, fun _ _ => rfl, fun _ _ => rfl⟩
  · obtain ⟨_, _, _, _, _, _, _, _, rfl, anchor_kept⟩ := pollTime_writes hu
    obtain ⟨_, _, _, _, _, rfl⟩ := sent
    exact ⟨rfl, rfl, rfl, rfl, rfl, rfl, rfl, rfl, anchor_kept,
      fun k hk => read_memWrite_beyond _ _ (by rwa [recordBytesOf_length]),
      fun k hk => read_memWrite_beyond _ _ (by rwa [symbolEncode_length, recordBytesOf_length])⟩

end Sys2Proof.Machine
end

section
/-! PROOFS. The Frame-Time Synchronizer (43_frame_sync.md): the frame function is the exact floor of the elapsed time
over the time of a frame (R123, R125), so it is monotone and has the boundaries of R130 (R126); and SYNC sets the
anchor once and then reports a frame of the anchor and the reading alone (R120, R122, R127), never of an earlier
reading (R128). -/

namespace Sys2Proof.Machine

/-! ## The frame function as arithmetic (R123, R125, R126, R130) -/

/-- Settles O26: a frame lasts more than 2^14 of the 2^64 microseconds that a time can count. -/
theorem frameOfNeverWraps : Obligations.FrameOfNeverWraps := by
  intro d
  have small : d.toNat < 2 ^ 64 := d.isLt
  exact ⟨frameOf_toNat d, by rw [frameOf_toNat]; omega⟩

/-- The quotient of R123 is the floor of the elapsed time over the microseconds of a frame, since
`1,000,000 / 59.94 = 50,000,000 / 2997`. -/
theorem quotient_eq_floor (d : ℕ) :
    ((d * 2997 / 50000000 : ℕ) : ℤ) = ⌊(d : ℚ) / (1000000 / (5994 / 100))⌋ := by
  have same : (d : ℚ) / (1000000 / (5994 / 100)) = ((d * 2997 : ℕ) : ℚ) / (50000000 : ℕ) := by
    push_cast
    ring
  rw [same, Rat.floor_natCast_div_natCast, Int.natCast_ediv]

/-- Settles O24. -/
theorem frameOfIsTheExactFloor : Obligations.FrameOfIsTheExactFloor := by
  intro d
  rw [frameOf_toNat, quotient_eq_floor]

/-- Settles O27: each ceiling is moved over to the elapsed time, where the boundary is that of the quotient. -/
theorem frameBoundaries : Obligations.FrameBoundaries := by
  intro d n
  have lower : ⌈(n : ℚ) * 50000000 / 2997⌉ ≤ (d.toNat : ℤ) ↔ n * 50000000 ≤ d.toNat * 2997 := by
    rw [Int.ceil_le, div_le_iff₀ (by norm_num)]
    norm_cast
  have upper : (d.toNat : ℤ) < ⌈((n : ℚ) + 1) * 50000000 / 2997⌉ ↔ d.toNat * 2997 < (n + 1) * 50000000 := by
    rw [Int.lt_ceil, lt_div_iff₀ (by norm_num)]
    norm_cast
  rw [lower, upper, frameOf_toNat]
  omega

theorem frameOf_mono {d₁ d₂ : TimeUs} (h : d₁ ≤ d₂) : frameOf d₁ ≤ frameOf d₂ := by
  rw [BitVec.le_def] at h ⊢
  rw [frameOf_toNat, frameOf_toNat]
  exact Nat.div_le_div_right (Nat.mul_le_mul_right 2997 h)

/-- The elapsed time of a later reading, both readings being at or after the anchor, is no smaller. -/
theorem elapsed_mono {anchor now₁ now₂ : TimeUs} (h₁ : anchor ≤ now₁) (h : now₁ ≤ now₂) :
    now₁ - anchor ≤ now₂ - anchor := by
  rw [BitVec.le_def, BitVec.toNat_sub_of_le h₁, BitVec.toNat_sub_of_le (BitVec.le_trans h₁ h)]
  exact Nat.sub_le_sub_right h _

/-! ## SYNC (R120, R122) -/

/-- Settles O28: with an anchor set and no earlier reading the elapsed time does not wrap, and its frame is the exact
floor. -/
theorem syncSetsTheAnchorOnce : Obligations.SyncSetsTheAnchorOnce := by
  refine fun s => ⟨sync_first, fun anchored hle => ⟨_, sync_later anchored hle, ?_⟩⟩
  have no_wrap : (s.nowR - s.anchor).toNat = s.nowR.toNat - s.anchor.toNat := BitVec.toNat_sub_of_le hle
  rw [frameOfIsTheExactFloor, no_wrap, Nat.cast_sub hle]

/-- Settles O29: the elapsed time is 0, and so is its frame. -/
theorem syncAtTheAnchorReportsZero : Obligations.SyncAtTheAnchorReportsZero := by
  intro s anchored at_anchor
  have frame_zero : frameOf (s.nowR - s.anchor) = 0 := by rw [at_anchor, BitVec.sub_self]; rfl
  rw [sync_later anchored (BitVec.le_of_eq at_anchor.symm), frame_zero]

/-! ## The frame of a later Poll (R126, R127, R128) -/

/-- With an anchor set, a `time` phase that completes read no earlier time and reports the frame of the time elapsed. -/
theorem pollTime_anchored {s t : State} (anchored : s.anchorValid = true) (h : pollTime s = .next t) :
    s.anchor ≤ nextReading s ∧ t.frameR = frameOf (nextReading s - s.anchor) := by
  obtain ⟨unset, -⟩ | ⟨-, hle, rfl⟩ := pollTime_eq_next.1 h
  · exact absurd anchored (by simp [unset])
  · exact ⟨hle, rfl⟩

/-- Settles O25: the frame function is monotone, and the later reading of two Polls of one anchor has no smaller
elapsed time. -/
theorem frameOfIsMonotone : Obligations.FrameOfIsMonotone := by
  refine ⟨fun _ _ => frameOf_mono, ?_, by decide, by decide⟩
  intro s₁ s₂ t₁ t₂ anchored₁ anchored₂ same_anchor later h₁ h₂
  obtain ⟨hle, frame₁⟩ := pollTime_anchored anchored₁ h₁
  obtain ⟨-, frame₂⟩ := pollTime_anchored anchored₂ h₂
  rw [frame₁, frame₂, ← same_anchor]
  exact frameOf_mono (elapsed_mono hle later)

/-- Settles O30: both frames are the frame of the same elapsed time. -/
theorem pollFrameDependsOnAnchorAndReadingAlone : Obligations.PollFrameDependsOnAnchorAndReadingAlone := by
  intro s₁ s₂ t₁ t₂ anchored₁ anchored₂ same_anchor same_reading h₁ h₂
  rw [(pollTime_anchored anchored₁ h₁).2, (pollTime_anchored anchored₂ h₂).2, same_anchor, same_reading]

/-- Settles O16: the POLL comes to its `time` phase, which refuses the reading. -/
theorem readingBeforeTheAnchorIsRefused : Obligations.ReadingBeforeTheAnchorIsRefused := by
  intro s a b p q rest hr anchored early
  have refused : pollTime (payloadRead p q rest s) = .refused .timeBeforeAnchor :=
    pollTime_eq_refused.2 ⟨anchored, early, rfl⟩
  rw [exec_poll_eq hr, refused, andThen_refused]

end Sys2Proof.Machine
end

section
/-! PROOFS. The Symbol Encoder (44_symbol_encoder.md): a word is two half-words, one for each of two bytes; from what
a half-word holds follow the places of the bits (R137 to R139), the closed form (R140), the bit stream (R141) and
decoding (R142). -/

namespace Sys2Proof.Machine

/-! ## The half-word of a byte (R140) -/

theorem spread_getLsbD (b : Byte) {p : Nat} (h : p < 16) :
    (spread b).getLsbD p = (p % 2 == 1 || b.getLsbD (7 - p / 2)) := by
  simp [spread, h]

theorem spread_enable (b : Byte) {j : Nat} (h : j < 8) : (spread b).getLsbD (2 * j + 1) = true := by
  simp [spread_getLsbD b (show 2 * j + 1 < 16 by omega)]

theorem spread_data (b : Byte) {j : Nat} (h : j < 8) : (spread b).getLsbD (2 * j) = b.getLsbD (7 - j) := by
  simp [spread_getLsbD b (show 2 * j < 16 by omega)]

/-- The half-word at index `i`: `spread` of byte `i`, the end marker right after the last byte, zero beyond it. -/
def symbolHalf (s : List Byte) (i : Nat) : BitVec 16 :=
  match s[i]? with
  | some b => spread b
  | none => if i = s.length then 0x0003 else 0

theorem symbolHalf_byte {s : List Byte} {i : Nat} {b : Byte} (h : s[i]? = some b) : symbolHalf s i = spread b := by
  simp [symbolHalf, h]

@[simp] theorem symbolHalf_marker (s : List Byte) : symbolHalf s s.length = 0x0003 := by simp [symbolHalf]

theorem symbolHalf_beyond {s : List Byte} {i : Nat} (h : s.length < i) : symbolHalf s i = 0 := by
  simp [symbolHalf, h.le, h.ne']

@[simp] theorem symbolHalf_cons_succ (b : Byte) (s : List Byte) (i : Nat) :
    symbolHalf (b :: s) (i + 1) = symbolHalf s i := by
  simp [symbolHalf]

/-- The bits that R137 to R139 place are those of the half-words. -/
theorem symbolBit_eq (s : List Byte) (k p : Nat) :
    symbolBit s k p = (symbolHalf s (2 * k + p / 16)).getLsbD (p % 16) := by
  have place : p / 2 / 8 = p / 16 ∧ p / 2 % 8 = p % 16 / 2 ∧ p % 2 = p % 16 % 2 := by omega
  have inHalf : p % 16 < 16 := Nat.mod_lt _ (by decide)
  simp only [symbolBit, place]
  generalize 2 * k + p / 16 = i, p % 16 = q at *
  obtain byte | rfl | beyond := Nat.lt_trichotomy i s.length
  · rw [symbolHalf_byte (List.getElem?_eq_getElem byte), spread_getLsbD _ inHalf]
    simp [byte]
  · have marker : ∀ q < 16, (0x0003 : BitVec 16).getLsbD q = (q / 2 == 0) := by decide
    rw [symbolHalf_marker, marker q inHalf]
    simp
  · rw [symbolHalf_beyond beyond]
    simp [beyond.not_gt, beyond.ne']

/-- Word `k` holds half-word `2k` in its low and half-word `2k + 1` in its high half. -/
theorem symbolWord_eq (s : List Byte) (k : Nat) :
    symbolWord s k = symbolHalf s (2 * k + 1) ++ symbolHalf s (2 * k) := by
  refine BitVec.eq_of_getLsbD_eq fun p hp => ?_
  rw [symbolWord_getLsbD s k hp, symbolBit_eq, BitVec.getLsbD_append]
  by_cases low : p < 16
  · rw [if_pos low, Nat.div_eq_of_lt low, Nat.mod_eq_of_lt low, Nat.add_zero]
  · have high : p / 16 = 1 ∧ p % 16 = p - 16 := by omega
    rw [if_neg low, high.1, high.2]

/-- Bit `p` of half-word `i` in the word that holds it. -/
theorem symbolWord_half (s : List Byte) (i : Nat) {p : Nat} (h : p < 16) :
    (symbolWord s (i / 2)).getLsbD (16 * (i % 2) + p) = (symbolHalf s i).getLsbD p := by
  have place : 2 * (i / 2) + (16 * (i % 2) + p) / 16 = i ∧ (16 * (i % 2) + p) % 16 = p := by omega
  rw [symbolWord_getLsbD s _ (by omega), symbolBit_eq, place.1, place.2]

/-! ## Word count and the place of each bit (R136 to R139) -/

/-- Settles O33: it is the word count of R136. -/
theorem encodeWordCount : Obligations.EncodeWordCount := symbolEncode_length

theorem symbolWord_enable {s : List Byte} {i j : Nat} (hi : i < s.length) (hj : j < 8) :
    (symbolWord s (i / 2)).getLsbD (2 * (8 * (i % 2) + j) + 1) = true := by
  have place : 2 * (8 * (i % 2) + j) + 1 = 16 * (i % 2) + (2 * j + 1) := by omega
  rw [place, symbolWord_half s i (by omega), symbolHalf_byte (List.getElem?_eq_getElem hi), spread_enable _ hj]

theorem symbolWord_data {s : List Byte} {i j : Nat} {b : Byte} (hb : s[i]? = some b) (hj : j < 8) :
    (symbolWord s (i / 2)).getLsbD (2 * (8 * (i % 2) + j)) = b.getLsbD (7 - j) := by
  have place : 2 * (8 * (i % 2) + j) = 16 * (i % 2) + 2 * j := by omega
  rw [place, symbolWord_half s i (by omega), symbolHalf_byte hb, spread_data _ hj]

theorem symbolWord_marker (s : List Byte) {p : Nat} (h : p < 2) :
    (symbolWord s (s.length / 2)).getLsbD (16 * (s.length % 2) + p) = true := by
  rw [symbolWord_half s _ (by omega), symbolHalf_marker]
  decide +revert

/-- The last word of a response of even length holds the end marker alone. -/
theorem symbolWord_last_even {s : List Byte} (h : s.length % 2 = 0) : symbolWord s (s.length / 2) = 0x00000003 := by
  have whole : 2 * (s.length / 2) = s.length := by omega
  rw [symbolWord_eq, whole, symbolHalf_marker, symbolHalf_beyond (Nat.lt_succ_self _)]
  rfl

/-- Word `i / 2` of a response that is not empty, for every half-word up to the end marker's (R136). -/
theorem symbolEncode_covers {s : List Byte} {i : Nat} (hne : s ≠ []) (h : i ≤ s.length) :
    (symbolEncode s)[i / 2]? = some (symbolWord s (i / 2)) :=
  symbolEncode_getElem? (symbolWordCount_covers (mt List.length_eq_zero_iff.1 hne) h)

theorem symbolEncode_holds_byte {s : List Byte} {i : Nat} (h : i < s.length) :
    (symbolEncode s)[i / 2]? = some (symbolWord s (i / 2)) :=
  symbolEncode_covers (List.ne_nil_of_length_pos (Nat.zero_lt_of_lt h)) h.le

/-- `0x80 >> j` selects bit `7 - j` of a byte. -/
theorem and_mask_ne_zero (b : Byte) {j : Nat} (h : j < 8) : (b &&& (0x80#8 >>> j) != 0) = b.getLsbD (7 - j) := by
  have mask : 0x80#8 >>> j = BitVec.twoPow 8 (7 - j) := by decide +revert
  have bit : BitVec.twoPow 8 (7 - j) ≠ 0 := by decide +revert
  rw [mask, BitVec.and_twoPow]
  cases b.getLsbD (7 - j) with
  | false => rfl
  | true => exact bne_iff_ne.2 bit

/-- Settles O34: byte `i` is half-word `i`, which is its `spread`. -/
theorem encodeDataAndEnableBits : Obligations.EncodeDataAndEnableBits := by
  intro s i j b hb hj
  obtain ⟨hi, -⟩ := List.getElem?_eq_some_iff.1 hb
  refine ⟨_, symbolEncode_holds_byte hi, symbolWord_enable hi hj, ?_⟩
  rw [symbolWord_data hb hj, and_mask_ne_zero b hj]

/-- Settles O35: half-word `len` is the end marker. -/
theorem encodeEndMarker : Obligations.EncodeEndMarker := fun s hne =>
  ⟨_, symbolEncode_covers hne le_rfl, symbolWord_marker s Nat.one_lt_two, symbolWord_marker s Nat.two_pos⟩

/-- Counted through the whole frame, the bits after the two of the end marker are 0 (R139). -/
theorem symbolBit_padding {s : List Byte} {k p : Nat} (h : 16 * s.length + 1 < 32 * k + p) :
    symbolBit s k p = false := by
  have noByte : ¬ 2 * k + p / 2 / 8 < s.length := by omega
  have notMarker : 2 * k + p / 2 / 8 = s.length → p / 2 % 8 ≠ 0 := by omega
  simpa [symbolBit, noByte] using notMarker

/-- Settles O36: below bit 32 it is a bit after the end marker, and a word has no others. -/
theorem encodePaddingIsZero : Obligations.EncodePaddingIsZero := by
  intro s p hne hp
  refine ⟨_, symbolEncode_covers hne le_rfl, ?_⟩
  by_cases inWord : p < 32
  · rw [symbolWord_getLsbD s _ inWord, symbolBit_padding (by omega)]
  · exact BitVec.getLsbD_of_ge _ _ (Nat.not_lt.1 inWord)

/-! ## The half-word form (R140) -/

theorem or_shift_eq_append (lo hi : BitVec 16) : lo.setWidth 32 ||| hi.setWidth 32 <<< 16 = hi ++ lo := by
  refine BitVec.eq_of_getLsbD_eq fun p hp => ?_
  rw [BitVec.getLsbD_append]
  by_cases low : p < 16
  · simp [low, hp]
  · simp [low, hp, BitVec.getLsbD_of_ge lo p (Nat.not_lt.1 low)]

theorem halfWordTail_singleton (b : Byte) : halfWordTail [b] = [(0x0003 : BitVec 16) ++ spread b] := by
  have marker : (0x00030000 : SymbolWord) = (0x0003 : BitVec 16).setWidth 32 <<< 16 := by decide
  rw [halfWordTail, marker, or_shift_eq_append]

theorem halfWordTail_cons_cons (e o : Byte) (rest : List Byte) :
    halfWordTail (e :: o :: rest) = (spread o ++ spread e) :: halfWordTail rest := by
  rw [halfWordTail, or_shift_eq_append]

theorem symbolWord_cons_cons_succ (e o : Byte) (rest : List Byte) (k : Nat) :
    symbolWord (e :: o :: rest) (k + 1) = symbolWord rest k := by
  simp [symbolWord_eq, Nat.mul_succ]

/-- The words of what is left of a response, the end marker's included, are those of the half-word form. -/
theorem symbolWords_eq_halfWordTail (s : List Byte) :
    (List.range (s.length / 2 + 1)).map (symbolWord s) = halfWordTail s := by
  induction s using halfWordTail.induct with
  | case1 => exact congrArg ([·]) (symbolWord_last_even (s := []) rfl)
  | case2 b =>
    have only : symbolWord [b] 0 = (0x0003 : BitVec 16) ++ spread b :=
      (symbolWord_eq [b] 0).trans (congrArg (· ++ spread b) (symbolHalf_marker [b]))
    simp [halfWordTail_singleton, only]
  | case3 e o rest ih =>
    have count : (e :: o :: rest).length / 2 + 1 = (rest.length / 2 + 1) + 1 := by
      simp only [List.length_cons]; omega
    have first : symbolWord (e :: o :: rest) 0 = spread o ++ spread e := symbolWord_eq ..
    have others : symbolWord (e :: o :: rest) ∘ Nat.succ = symbolWord rest :=
      funext (symbolWord_cons_cons_succ e o rest)
    rw [count, List.range_succ_eq_map, List.map_cons, List.map_map, first, others, ih, halfWordTail_cons_cons]

theorem symbolEncode_eq_halfWordTail {s : List Byte} (h : s ≠ []) : symbolEncode s = halfWordTail s := by
  rw [← symbolWords_eq_halfWordTail, symbolEncode, symbolWordCount, if_neg (mt List.length_eq_zero_iff.1 h)]

/-- Settles O37: word by word, two bytes of the response at a time. -/
theorem encodeIsTheHalfWordForm : Obligations.EncodeIsTheHalfWordForm
  | [] => rfl
  | _ :: _ => symbolEncode_eq_halfWordTail (List.cons_ne_nil _ _)

/-! ## The bit stream (R141) -/

/-- The bits of a half-word, bit 0 first. -/
def halfBits (h : BitVec 16) : List Bool := (List.range 16).map h.getLsbD

theorem wordBits_append (hi lo : BitVec 16) : wordBits (hi ++ lo) = halfBits lo ++ halfBits hi := by
  unfold wordBits halfBits
  rw [List.range_add (n := 16) (m := 16), List.map_append, List.map_map]
  congr 1
  · refine List.map_congr_left fun p hp => ?_
    rw [BitVec.getLsbD_append, if_pos (List.mem_range.1 hp)]
  · refine List.map_congr_left fun p _ => ?_
    rw [Function.comp_apply, BitVec.getLsbD_append, if_neg (by omega), Nat.add_sub_cancel_left]

/-- A half-word is eight pair slots. -/
theorem halfBits_eq_pairs (h : BitVec 16) :
    halfBits h = (List.range 8).flatMap fun j => [h.getLsbD (2 * j), h.getLsbD (2 * j + 1)] := rfl

theorem halfBits_spread (b : Byte) : halfBits (spread b) = byteStream b := by
  rw [halfBits_eq_pairs, byteStream]
  refine List.flatMap_congr fun j hj => ?_
  rw [spread_data b (List.mem_range.1 hj), spread_enable b (List.mem_range.1 hj)]

/-- Byte by byte, then the end marker, then the zeros that fill the last word: its high half's rest, or the rest of
both halves. -/
theorem frameBits_halfWordTail (s : List Byte) :
    frameBits (halfWordTail s) = s.flatMap byteStream ++ [true, true] ++
      List.replicate (if s.length % 2 = 1 then 14 else 30) false := by
  induction s using halfWordTail.induct with
  | case1 => rfl
  | case2 b =>
    have marker : halfBits 0x0003 = [true, true] ++ List.replicate 14 false := by decide
    rw [halfWordTail_singleton, frameBits_cons, wordBits_append, halfBits_spread, marker]
    simp
  | case3 e o rest ih =>
    have parity : (e :: o :: rest).length % 2 = rest.length % 2 := by simp [Nat.add_assoc]
    rw [halfWordTail_cons_cons, frameBits_cons, wordBits_append, halfBits_spread, halfBits_spread, ih, parity]
    simp

/-- Settles O38: the stream is that of the half-word form, whose half-words are bytes and the end marker. -/
theorem encodeStreamForm : Obligations.EncodeStreamForm := fun s hne => by
  rw [symbolEncode_eq_halfWordTail hne, frameBits_halfWordTail]

/-! ## Decoding (R142) -/

theorem decodedByte_symbolEncode {s : List Byte} {i : Nat} {b : Byte} (hb : s[i]? = some b) :
    decodedByte (symbolEncode s) i = b := by
  obtain ⟨hi, -⟩ := List.getElem?_eq_some_iff.1 hb
  have word := symbolEncode_holds_byte hi
  refine BitVec.eq_of_getLsbD_eq fun p hp => ?_
  have bit : 7 - (7 - p) = p := by omega
  simp [decodedByte, hp, dataBit, word, symbolWord_data hb (show 7 - p < 8 by omega), bit]

theorem symbolDecode_symbolEncode (s : List Byte) : symbolDecode s.length (symbolEncode s) = s := by
  refine List.ext_getElem (by simp [symbolDecode]) fun i _ hi => ?_
  simp [symbolDecode, decodedByte_symbolEncode (List.getElem?_eq_getElem hi)]

theorem symbolEncode_getLast? {s : List Byte} (h : s ≠ []) :
    (symbolEncode s).getLast? = some (symbolWord s (s.length / 2)) := by
  have count : symbolWordCount s.length = s.length / 2 + 1 := if_neg (mt List.length_eq_zero_iff.1 h)
  rw [List.getLast?_eq_getElem?, symbolEncode_length, count]
  exact symbolEncode_covers h le_rfl

/-- Bit 3 of the last word, the enable bit of its pair slot 1, tells an odd length from an even one. -/
theorem symbolEncode_last_bit3 (s : List Byte) :
    ((symbolEncode s).getLast?.getD 0).getLsbD 3 = decide (s.length % 2 = 1) := by
  by_cases hne : s = []
  · subst hne
    rfl
  rw [symbolEncode_getLast? hne, Option.getD_some]
  obtain even | odd := Nat.mod_two_eq_zero_or_one s.length
  · simp [symbolWord_last_even even, even]
  · have last : (s.length - 1) / 2 = s.length / 2 ∧ (s.length - 1) % 2 = 0 := by omega
    have enable := symbolWord_enable (s := s) (i := s.length - 1) (j := 1) (by omega) (by decide)
    rw [last.1, last.2] at enable
    simpa [odd] using enable

/-- Equal words come from responses of equal length: their number tells half of it, the last one its parity. -/
theorem length_eq_of_symbolEncode_eq {s t : List Byte} (h : symbolEncode s = symbolEncode t) :
    s.length = t.length := by
  have count : symbolWordCount s.length = symbolWordCount t.length := by
    rw [← symbolEncode_length, h, symbolEncode_length]
  have parity : s.length % 2 = 1 ↔ t.length % 2 = 1 := by
    rw [← decide_eq_decide, ← symbolEncode_last_bit3, h, symbolEncode_last_bit3]
  unfold symbolWordCount at count
  split_ifs at count <;> omega

/-- Settles O39: data bits are read where `symbolWord_data` places them, and equal words come from responses of
equal length, so that decoding that many bytes tells two responses apart. -/
theorem decodingTheWordsGivesTheBytes : Obligations.DecodingTheWordsGivesTheBytes := by
  intro s
  refine ⟨symbolDecode_symbolEncode s, fun i hi j hj => ?_, fun t h => ?_, fun hne => ?_⟩
  · exact ⟨_, symbolEncode_holds_byte hi, symbolWord_enable hi hj⟩
  · rw [← symbolDecode_symbolEncode s, h, length_eq_of_symbolEncode_eq h, symbolDecode_symbolEncode]
  · refine ⟨_, symbolEncode_getLast? hne, symbolWord_last_even, fun odd => ⟨?_, ?_⟩⟩
    · simpa [symbolEncode_getLast? hne, odd] using symbolEncode_last_bit3 s
    · simpa [odd] using symbolWord_marker s Nat.one_lt_two

end Sys2Proof.Machine
end

section
/-! PROOFS. RECOVER (45_fail_recover.md): it runs its four steps from every state and writes the pc and the channel
alone (R150 to R153), a core step enters it on an unrecognised opcode byte and on nothing else (R155, R161), and a
POLL after it answers what a POLL without it answers, since POLL reads of the channel only its received bytes and
whether it takes words (R152). -/

namespace Sys2Proof.Machine

/-! ## RECOVER's next state (R150, R153) -/

/-- In a phase that never waits a run begins with the effect of the phase. -/
theorem PhaseEffect.runHandler_succ {s t : State} {f : Fsm} {p : Phase} (h : PhaseEffect s t)
    (hp : s.pc = ⟨f, p⟩) (never_waits : p ≠ .fetch ∧ p ≠ .pay0 ∧ p ≠ .pay1 ∧ p ≠ .tx) (n : Nat) :
    runHandler (n + 1) s = runHandler n t := by
  have hw := waits_false hp never_waits
  rw [Machine.runHandler_succ n (by simp [hp, never_waits]) hw, h.phaseStep_eq hw, andThen_next]

/-- The state that RECOVER leaves, entered in `s`. -/
def recovered (s : State) : State :=
  { s with
    pc := .idle
    chan := { (scInit .input s).chan with enabled := true }
    trace := s.trace ++ [.disable, .wait s.params.recoverSettleUs, .init .input, .enable] }

theorem exec_recover_eq (op : Byte) (s : State) : exec (.recover op) s = .next (recovered s) := by
  rw [exec_eq_run, dispatch_eq_entryPc, entryPc]
  refine ((PhaseEffect.disable rfl).runHandler_succ rfl (by simp) (handlerFuel - 1)).trans ?_
  refine ((PhaseEffect.settle rfl).runHandler_succ rfl (by simp) (handlerFuel - 2)).trans ?_
  refine ((PhaseEffect.init rfl).runHandler_succ rfl (by simp) (handlerFuel - 3)).trans ?_
  refine ((PhaseEffect.enable rfl).runHandler_succ rfl (by simp) (handlerFuel - 4)).trans ?_
  rw [runHandler_idle _ rfl]
  simp [recovered, scInit, emit]

/-- Settles O12: an unrecognised opcode is a whole frame, and RECOVER's next state is known. -/
theorem recoverReinitialisesTheChannel : Obligations.RecoverReinitialisesTheChannel := by
  intro s op
  refine ⟨fun noProbe noPoll noOrigin => decode_unrecognised ?_,
    _, exec_recover_eq op s, rfl, rfl, rfl, rfl, rfl, rfl, rfl⟩
  refine Bool.eq_false_iff.2 fun known => ?_
  obtain rfl | rfl | rfl := (recognised_iff op).1 known
  · exact noProbe rfl
  · exact noOrigin rfl
  · exact noPoll rfl

/-- Settles O23: RECOVER's next state is the old one but for those three fields. -/
theorem recoverFrame : Obligations.RecoverFrame := by
  intro op s t h
  obtain rfl : recovered s = t := Host.Outcome.next.inj ((exec_recover_eq op s).symm.trans h)
  exact ⟨rfl, fun _ => rfl, fun _ => rfl⟩

/-- Settles O13: of RECOVER's four steps only `SC.init` touches the buffers (R153). -/
theorem recoverFlushesByTheParameters : Obligations.RecoverFlushesByTheParameters := fun s op =>
  ⟨_, exec_recover_eq op s, rfl, rfl, rfl, rfl⟩

/-! ## What enters Recovering (R155, R161) -/

/-- DISPATCH enters Recovering on no recognised opcode (R91). -/
theorem opcode_of_entryPc_recovering {b : Byte} {following : List Byte}
    (h : (entryPc (selects b following)).fsm = .recovering) : b ≠ 0x00 ∧ b ≠ 0x41 ∧ b ≠ 0x40 := by
  refine ⟨?_, ?_, ?_⟩ <;> rintro rfl <;> simp [entryPc_selects] at h

theorem Fsm.responding.ne_recovering {f : Fsm} (hf : f.responding) : f ≠ .recovering := by
  obtain rfl | rfl | rfl := hf <;> simp

/-- Settles O46: of all effects of a core step only `fetch` and RECOVER's own lead to Recovering. -/
theorem onlyAnUnknownOpcodeEntersRecovering : Obligations.OnlyAnUnknownOpcodeEntersRecovering := by
  intro s t h inside outside
  cases phaseStep_effect h with
  | wait => exact absurd inside outside
  | fetch b rest hp hr => exact ⟨hp, b, rest, hr, opcode_of_entryPc_recovering inside⟩
  | disable hp | settle hp | init hp => simp [hp] at outside
  | mode f hf => exact absurd inside hf.ne_recovering
  | write f w hf =>
    split at inside
    · exact absurd inside hf.ne_recovering
    · simp at inside
  | _ => simp at inside

/-! ## POLL on another channel (R110, R152) -/

theorem dropReading_whatever_channel (s : State) (c : Channel) (past : List Event) :
    dropReading { s with chan := c, trace := past } = { dropReading s with chan := c, trace := past } := by
  cases h : s.nowIn <;> simp [dropReading, h]

/-- Poll's `time` phase performs its one event, whatever the channel and whatever happened before. -/
theorem pollTime_whatever_channel {s t : State} (h : pollTime s = .next t) (c : Channel) (past : List Event) :
    pollTime { s with chan := c, trace := past } =
      .next { t with chan := c, trace := past ++ [.now (nextReading s)] } := by
  rw [pollTime_eq_next, dropReading_whatever_channel s c past]
  obtain ⟨unset, rfl⟩ | ⟨anchored, hle, rfl⟩ := pollTime_eq_next.1 h
  · exact .inl ⟨unset, rfl⟩
  · exact .inr ⟨anchored, hle, rfl⟩

theorem pollTime_chan_trace {s t : State} (h : pollTime s = .next t) :
    t.chan = s.chan ∧ t.trace = s.trace ++ [.now (nextReading s)] := by
  obtain ⟨-, rfl⟩ | ⟨-, -, rfl⟩ := pollTime_eq_next.1 h <;> exact ⟨dropReading_chan s, rfl⟩

/-- A response that is built waits, in Output mode, on a channel that is not ready for a word (R189). -/
theorem runHandler_responseBuilt_not_ready {f : Fsm} (hf : f.responding) {bs : List Byte} (hne : bs.length ≠ 0)
    (es : List Event) (n : Nat) {s : State} (busy : s.chan.txReady = false) :
    runHandler (n + 1) (responseBuilt f bs es s) = .next
      { responseBuilt f bs (es ++ [.mode .output]) s with
        pc := ⟨f, .tx⟩
        txIdx := 0
        chan := { s.chan with mode := .output } } := by
  have some_word := symbolWordCount_pos hne
  have effect := PhaseEffect.mode (s := responseBuilt f bs es s) f hf rfl some_word.ne'
  refine (effect.runHandler_succ rfl (by simp) n).trans ?_
  refine (runHandler_waits n ?_).trans ?_
  · rw [waits_tx rfl]
    simp [responseBuilt, some_word, accepts, busy]
  · simp [responseBuilt]

/-- The events of TRANSMIT of the response `bs` on an enabled channel that is ready for words or not. -/
def transmitEvents (ready : Bool) (bs : List Byte) : List Event :=
  .mode .output :: if ready then (symbolEncode bs).map .tx else []

/-- What TRANSMIT performs on an enabled channel depends on its readiness alone, and TRANSMIT writes neither anchor nor
frame. -/
theorem runHandler_responseBuilt_events {f : Fsm} (hf : f.responding) {bs : List Byte} (hne : bs.length ≠ 0)
    (es : List Event) {n : Nat} (hn : symbolWordCount bs.length < n) {s : State} (on : s.chan.enabled = true) :
    ∃ t, runHandler n (responseBuilt f bs es s) = .next t ∧
      t.trace = s.trace ++ (es ++ transmitEvents s.chan.txReady bs) ∧
      t.anchor = s.anchor ∧ t.anchorValid = s.anchorValid ∧ t.frameR = s.frameR := by
  cases ready : s.chan.txReady with
  | true => exact ⟨_, runHandler_responseBuilt hf hne es hn on ready, rfl, rfl, rfl, rfl⟩
  | false =>
    obtain ⟨n, rfl⟩ : ∃ m, n = m + 1 := ⟨n - 1, by omega⟩
    refine ⟨_, runHandler_responseBuilt_not_ready hf hne es n ready, ?_, rfl, rfl, rfl⟩
    simp [responseBuilt, transmitEvents]

/-- A POLL on an enabled channel, its `time` phase done: what it performs, and the anchor and frame it leaves. -/
theorem exec_poll_events {s u : State} {p q : Byte} {rest : List Byte} (hr : s.chan.rx = p :: q :: rest)
    (on : s.chan.enabled = true) (hu : pollTime (payloadRead p q rest s) = .next u) (a b : Byte) :
    ∃ t, exec (.poll a b) s = .next t ∧
      t.trace = s.trace ++ (.rx p :: .rx q :: .now (nextReading s) ::
        .fetch u.frameR (rfsFetch u.params.rfs u.frameR) ::
        transmitEvents s.chan.txReady (recordBytesOf (rfsFetch u.params.rfs u.frameR))) ∧
      t.anchor = u.anchor ∧ t.anchorValid = u.anchorValid ∧ t.frameR = u.frameR := by
  obtain ⟨u_chan, u_trace⟩ := pollTime_chan_trace hu
  have u_on : u.chan.enabled = true := by rw [u_chan]; exact on
  obtain ⟨t, run, t_trace, kept⟩ := runHandler_responseBuilt_events (f := .respondingPoll)
    (bs := recordBytesOf (rfsFetch u.params.rfs u.frameR)) (n := handlerFuel - 5) (.inr (.inr rfl)) (by simp)
    [.fetch u.frameR (rfsFetch u.params.rfs u.frameR)] (by rw [recordBytesOf_length]; decide) u_on
  refine ⟨t, ?_, ?_, kept⟩
  · rw [exec_poll_eq hr, hu, andThen_next]
    exact run
  · rw [t_trace, u_trace, u_chan]
    simp [payloadRead, nextReading]

/-- What a POLL performs, and the anchor and frame that it leaves, depend on an enabled channel by its received bytes
and its readiness for words alone. -/
theorem exec_poll_whatever_channel {s v : State} {a b : Byte} (h : exec (.poll a b) s = .next v)
    (on : s.chan.enabled = true) {c : Channel} (c_on : c.enabled = true) (same_rx : c.rx = s.chan.rx)
    (same_ready : c.txReady = s.chan.txReady) (pc : Pc) (past : List Event) :
    ∃ w es, exec (.poll a b) { s with pc := pc, chan := c, trace := past } = .next w ∧
      v.trace = s.trace ++ es ∧ w.trace = past ++ es ∧
      w.anchor = v.anchor ∧ w.anchorValid = v.anchorValid ∧ w.frameR = v.frameR := by
  have waiting := pollWaitsForItsPayload s a b
  have waiting' := pollWaitsForItsPayload { s with pc := pc, chan := c, trace := past } a b
  match hr : s.chan.rx with
  | [] =>
    obtain rfl := Host.Outcome.next.inj (((waiting 0).1 hr).symm.trans h)
    exact ⟨_, [], (waiting' 0).1 (same_rx.trans hr), by simp⟩
  | [p] =>
    obtain rfl := Host.Outcome.next.inj (((waiting p).2 hr).symm.trans h)
    exact ⟨_, [.rx p], (waiting' p).2 (same_rx.trans hr), rfl, rfl, rfl, rfl, rfl⟩
  | p :: q :: rest =>
    rw [exec_poll_eq hr] at h
    obtain ⟨u, hu, hrun⟩ := andThen_eq_next.1 h
    have hu' := pollTime_whatever_channel hu { c with rx := rest } (past ++ [.rx p, .rx q])
    obtain ⟨v', run, v_trace, v_anchor, v_valid, v_frame⟩ := exec_poll_events hr on hu a b
    obtain ⟨w, run', w_trace, w_anchor, w_valid, w_frame⟩ :=
      exec_poll_events (s := { s with pc := pc, chan := c, trace := past }) (same_rx.trans hr) c_on hu' a b
    rw [exec_poll_eq hr, hu, andThen_next] at run
    obtain rfl : v' = v := Host.Outcome.next.inj (run.symm.trans hrun)
    refine ⟨w, _, run', v_trace, ?_, w_anchor.trans v_anchor.symm, w_valid.trans v_valid.symm,
      w_frame.trans v_frame.symm⟩
    rw [w_trace, same_ready]
    rfl

/-- Settles O58: where RECOVER keeps the received bytes, its channel is enabled, holds the same bytes and is as ready
as before. -/
theorem recoveryIsInvisibleToThePoll : Obligations.RecoveryIsInvisibleToThePoll := by
  intro s u v op a b keeps on hu hv
  obtain rfl : recovered s = u := Host.Outcome.next.inj ((exec_recover_eq op s).symm.trans hu)
  have same_rx : (recovered s).chan.rx = s.chan.rx := by simp [recovered, scInit, emit, keeps]
  exact exec_poll_whatever_channel hv on rfl same_rx rfl _ _

end Sys2Proof.Machine
end

section
/-! PROOFS. The exception and its surroundings (60_exceptions.md): when a byte that the host drives reaches the
received bytes (R172 b, d), and the entry and the return of UnknownCommand (R163, R164). -/

namespace Sys2Proof.Machine

/-! ## A byte driven by the host (R172) -/

/-- An enabled channel in Input mode delivers the byte to the reading core, whatever `kept` says (R172 b, R65). -/
theorem hostDrives_of_reading {s : State} (b : Byte) (kept : Bool) (on : s.chan.enabled = true)
    (hm : s.chan.mode = .input) (hr : reading s = true) :
    hostDrives b kept s = { s with chan := { s.chan with rx := s.chan.rx ++ [b] } } := by
  simp [hostDrives, on, hm, hr]

/-- A disabled channel does not sample (R172 d). -/
theorem hostDrives_of_disabled {s : State} (b : Byte) (kept : Bool) (off : s.chan.enabled = false) :
    hostDrives b kept s = s := by
  simp [hostDrives, off]

/-- Settles O43: the two clauses are the two cases that R172 fixes. -/
theorem hostBytesReachAReadingCore : Obligations.HostBytesReachAReadingCore := by
  intro s b kept
  exact ⟨hostDrives_of_reading b kept, hostDrives_of_disabled b kept⟩

/-! ## Entry and return of the exception (R163, R164) -/

/-- Settles O44: the entry is a jump, which writes the pc alone. -/
theorem trapEntrySetsThePcOnly : Obligations.TrapEntrySetsThePcOnly := by
  intro op s
  rfl

/-- Settles O45: the phase at that pc is `enable`, whose next state is known. -/
theorem trapReturnGoesToListening : Obligations.TrapReturnGoesToListening := by
  intro s hp
  rw [phaseStep_enable hp, recoverEnable_eq]

end Sys2Proof.Machine
end

section
/-! PROOFS. Reset and hazards (70_reset_and_hazards.md): a response that waits for the channel goes on as if it had
never waited (R189), the run of a finite script is over once its frame is handled and its words are on the line
(R185, D17), and a core that is not kept from its steps always reads again (D29). -/

namespace Sys2Proof.Machine

/-! ## A response that waits for the channel (R189) -/

/-- The state in which `tx` of the response `bs` begins. -/
def transmitBegun (f : Fsm) (bs : List Byte) (es : List Event) (s : State) : State :=
  { responseBuilt f bs (es ++ [.mode .output]) s with
    pc := ⟨f, .tx⟩
    txIdx := 0
    chan := { s.chan with mode := .output } }

theorem runHandler_responseBuilt_begins {f : Fsm} (hf : f.responding) {bs : List Byte} (hne : bs.length ≠ 0)
    (es : List Event) (n : Nat) (s : State) :
    runHandler (n + 1) (responseBuilt f bs es s) = runHandler n (transmitBegun f bs es s) := by
  have effect := PhaseEffect.mode (s := responseBuilt f bs es s) f hf rfl (symbolWordCount_pos hne).ne'
  refine (effect.runHandler_succ rfl (by simp) n).trans ?_
  simp [transmitBegun, responseBuilt]

theorem waits_transmitBegun {f : Fsm} {bs : List Byte} (hne : bs.length ≠ 0) (es : List Event) {s : State}
    (busy : s.chan.txReady = false) : waits (transmitBegun f bs es s) = true := by
  rw [waits_tx rfl]
  simp [transmitBegun, responseBuilt, symbolWordCount_pos hne, accepts, busy]

/-- `tx` of a response has as many core steps left as the response has words. -/
theorem phasesLeft_transmitBegun {f : Fsm} (hf : f.responding) {bs : List Byte} (hne : bs.length ≠ 0)
    (es : List Event) (s : State) : phasesLeft (transmitBegun f bs es s) = symbolWordCount bs.length := by
  have some_word : 1 ≤ symbolWordCount bs.length := symbolWordCount_pos hne
  obtain rfl | rfl | rfl := hf <;>
    simp [phasesLeft, transmitBegun, responseBuilt, Pc.phasesOf, max_eq_right some_word]

/-- Fuel beyond the steps that a handler has left does not matter. -/
theorem runHandler_eq_of_phasesLeft_le {n : Nat} {s : State} (hc : s.wordCount ≤ Config.maxWords)
    (hl : phasesLeft s ≤ n) : runHandler n s = runHandler (phasesLeft s) s := by
  obtain ⟨k, rfl⟩ := Nat.exists_eq_add_of_le hl
  exact runHandler_add_of_phasesLeft_le hc le_rfl k

/-- The answer `busy` waits at the first word of a response of `f`, with `accepted` in the transmit buffer, and goes
on to the answer `ready` once the channel is ready for words. -/
def WaitsAndResumes (f : Fsm) (accepted : List SymbolWord) (busy ready : StepResult) : Prop :=
  ∃ w, busy = .next w ∧ w.pc = ⟨f, .tx⟩ ∧ w.txIdx = 0 ∧ w.chan.tx = accepted ∧
    step w = .next w ∧ step (txReadyIs true w) = ready

theorem waitsAndResumes_responseBuilt {f : Fsm} (hf : f.responding) {bs : List Byte} (hne : bs.length ≠ 0)
    (fits : bs.length ≤ Config.maxResponseBytes) (es : List Event) {n : Nat} (hn : symbolWordCount bs.length ≤ n)
    {s : State} (busy : s.chan.txReady = false) (noMove : s.agenda = []) :
    WaitsAndResumes f s.chan.tx (runHandler (n + 1) (responseBuilt f bs es s))
      (runHandler (n + 1) (responseBuilt f bs es (txReadyIs true s))) := by
  have count : (transmitBegun f bs es (txReadyIs true s)).wordCount ≤ Config.maxWords := symbolWordCount_le fits
  have waiting := waits_transmitBegun (f := f) hne es busy
  refine ⟨transmitBegun f bs es s, runHandler_responseBuilt_not_ready hf hne es n busy, rfl, rfl, rfl, ?_, ?_⟩
  · exact (step_no_move (s := transmitBegun f bs es s) noMove).trans (runCommand_waits waiting)
  · calc step (transmitBegun f bs es (txReadyIs true s))
      _ = runHandler handlerFuel (transmitBegun f bs es (txReadyIs true s)) :=
        step_in_handler noMove (by simp [transmitBegun])
      _ = runHandler n (transmitBegun f bs es (txReadyIs true s)) := by
        rw [runHandler_eq_of_phasesLeft_le count (phasesLeft_le_handlerFuel count),
          runHandler_eq_of_phasesLeft_le count ((phasesLeft_transmitBegun hf hne es _).trans_le hn)]
      _ = runHandler (n + 1) (responseBuilt f bs es (txReadyIs true s)) :=
        (runHandler_responseBuilt_begins hf hne es n _).symm

/-- Poll's `time` phase does not see whether the channel is ready. -/
theorem pollTime_txReadyIs {s t : State} (h : pollTime s = .next t) (ready : Bool) :
    pollTime (txReadyIs ready s) = .next (txReadyIs ready t) := by
  obtain ⟨same_chan, one_event⟩ := pollTime_chan_trace h
  refine (pollTime_whatever_channel h { s.chan with txReady := ready } s.trace).trans ?_
  rw [← one_event, ← same_chan, txReadyIs]

theorem not_readsBeforeAnchor {s : State} (h : s.anchorValid = true → s.anchor ≤ nextReading s) :
    ¬ ReadsBeforeAnchor s :=
  fun ⟨anchored, early⟩ => BitVec.not_lt.2 (h anchored) early

/-- A POLL that has its payload and reads no time before the anchor comes to its record whether the channel is ready
or not. -/
theorem waitsAndResumes_poll {s : State} {p q : Byte} {rest : List Byte} (hr : s.chan.rx = p :: q :: rest)
    (busy : s.chan.txReady = false) (noMove : s.agenda = []) (onTime : ¬ ReadsBeforeAnchor s) (a b : Byte) :
    WaitsAndResumes .respondingPoll s.chan.tx (exec (.poll a b) s) (exec (.poll a b) (txReadyIs true s)) := by
  obtain ⟨u, hu⟩ | ⟨-, early⟩ := pollTime_completes_or_refuses (payloadRead p q rest s)
  · obtain ⟨u_chan, -⟩ := pollTime_chan_trace hu
    have ready : pollTime (payloadRead p q rest (txReadyIs true s)) = .next (txReadyIs true u) :=
      pollTime_txReadyIs hu true
    have u_agenda : u.agenda = [] := by
      obtain ⟨_, _, _, _, _, _, _, _, rfl, -⟩ := pollTime_writes hu
      exact noMove
    have begun := waitsAndResumes_responseBuilt (n := handlerFuel - 6) (.inr (.inr rfl))
      (bs := recordBytesOf (rfsFetch u.params.rfs u.frameR)) (by simp) (by simp)
      [.fetch u.frameR (rfsFetch u.params.rfs u.frameR)] (by rw [recordBytesOf_length]; decide)
      (by rw [u_chan]; exact busy) u_agenda
    rw [exec_poll_eq hr, exec_poll_eq (s := txReadyIs true s) hr, hu, ready, andThen_next, andThen_next]
    rw [u_chan] at begun
    exact begun
  · exact absurd early onTime

/-- Settles O17: each of the three handlers builds its response before it comes to the channel, and waits in the
state in which `tx` of the response begins. -/
theorem responseResumesWhereItWaited : Obligations.ResponseResumesWhereItWaited := by
  intro i f s _ busy noMove h
  obtain ⟨rfl, rfl⟩ | ⟨rfl, rfl⟩ | ⟨rfl, a, b, p, q, rest, rfl, hr, onTime⟩ := h
  · rw [exec_probe_eq, exec_probe_eq]
    exact waitsAndResumes_responseBuilt (.inl rfl) (by decide) (by decide) _ (by decide) busy noMove
  · rw [exec_origin_eq, exec_origin_eq]
    exact waitsAndResumes_responseBuilt (.inr (.inl rfl)) (by decide) (by decide) _ (by decide) busy noMove
  · exact waitsAndResumes_poll hr busy noMove (not_readsBeforeAnchor onTime) a b

/-! ## The words of a response on the line (R64, R68) -/

/-- The words are those of one frame: the last of them, and no other, ends it (R139, log 15). -/
def IsFrame (ws : List SymbolWord) : Prop :=
  ws ≠ [] ∧ ∀ k w, ws[k]? = some w → (endsFrame w = true ↔ k + 1 = ws.length)

theorem isFrame_symbolEncode {bs : List Byte} (hne : bs.length ≠ 0) : IsFrame (symbolEncode bs) := by
  refine ⟨?_, fun k w hw => (pairSlotsAndFrameEnd bs k w hw).1⟩
  rw [← List.length_pos_iff, symbolEncode_length]
  exact symbolWordCount_pos hne

theorem isFrame_singleton {w : SymbolWord} (h : IsFrame [w]) : endsFrame w = true := (h.2 0 w rfl).2 rfl

theorem IsFrame.of_cons_cons {w v : SymbolWord} {ws : List SymbolWord} (h : IsFrame (w :: v :: ws)) :
    endsFrame w = false ∧ IsFrame (v :: ws) := by
  refine ⟨Bool.eq_false_iff.2 fun ends => ?_, by simp, fun k u hu => ?_⟩
  · simpa using (h.2 0 w rfl).1 ends
  · simpa using h.2 (k + 1) u hu

/-- An enabled channel in Output mode shifts a whole frame out and is back in Input mode. -/
theorem channelShifts_frame {ws : List SymbolWord} (frame : IsFrame ws) {s : State} (on : s.chan.enabled = true)
    (hm : s.chan.mode = .output) (ht : s.chan.tx = ws) :
    channelShifts^[ws.length] s =
      { s with chan := { s.chan with tx := [], line := s.chan.line ++ frameBits ws, mode := .input } } := by
  induction ws generalizing s with
  | nil => exact absurd rfl frame.1
  | cons w ws ih =>
    rw [List.length_cons, Function.iterate_succ_apply, channelShifts_oldest on hm ht]
    cases ws with
    | nil => simp [isFrame_singleton frame]
    | cons v ws =>
      obtain ⟨more, frame'⟩ := frame.of_cons_cons
      refine (ih frame' ?enabled ?output rfl).trans (by simp)
      case enabled => exact on
      case output => simp [more]

/-! ## When the run of a script is over (R185, D17) -/

@[simp] theorem readBytes_append (es fs : List Event) : readBytes (es ++ fs) = readBytes es ++ readBytes fs :=
  List.filterMap_append

/-- The events of TRANSMIT write the words and read nothing. -/
theorem words_and_bytes_of_transmit (ws : List SymbolWord) :
    writtenWords (.mode .output :: ws.map .tx) = ws ∧ readBytes (.mode .output :: ws.map .tx) = [] := by
  simp [writtenWords, readBytes, List.filterMap_map]

/-- The run of `script` that began in `s₀`, on a channel with no word in its buffer, has read all its bytes by `s`,
and no word has been written since. -/
structure ScriptRead (script : List Byte) (s₀ s : State) : Prop where
  performed : ∃ es, s.trace = s₀.trace ++ es ∧ readBytes es = script ∧ writtenWords es = []
  noneReceived : s.chan.rx = []
  emptyAtStart : s₀.chan.tx = []
  empty : s.chan.tx = []
  line : s.chan.line = s₀.chan.line

/-- Once the frame `ws` has been written in answer to a script that has been read, as many shifts as it has words end
the run. -/
theorem ScriptRead.runOver_of_sent {script : List Byte} {ws : List SymbolWord} {s₀ s t : State}
    (h : ScriptRead script s₀ s) (frame : IsFrame ws) (on : s.chan.enabled = true) (idle : t.pc = .idle)
    (sent : t.trace = s.trace ++ .mode .output :: ws.map .tx)
    (chan : t.chan = { s.chan with mode := .output, tx := s.chan.tx ++ ws }) :
    RunOver script s₀ (channelShifts^[t.chan.tx.length] t) := by
  obtain ⟨⟨es, trace, read, silent⟩, noneReceived, emptyAtStart, empty, line⟩ := h
  obtain ⟨written, no_read⟩ := words_and_bytes_of_transmit ws
  have ht : t.chan.tx = ws := by rw [chan, empty]; rfl
  rw [ht, channelShifts_frame frame (by rw [chan]; exact on) (by rw [chan]) ht]
  exact {
    allRead := by simp [sent, trace, read, no_read]
    listening := idle
    blocked := by simp [chan, noneReceived]
    shiftedOut := ⟨rfl, ws, by simp [sent, trace, silent, written], by simp [chan, line, emptyAtStart]⟩
    backInInput := rfl }

/-- TRANSMIT of a response to a script that has been read leads, on an enabled channel that takes words, to a state
from which the shifts of its words end the run. -/
theorem ScriptRead.runOver_of_responseBuilt {script bs : List Byte} {s₀ s : State} {f : Fsm} {es : List Event}
    (h : ScriptRead script s₀ (responseBuilt f bs es s)) (hf : f.responding) (hne : bs.length ≠ 0) {n : Nat}
    (hn : symbolWordCount bs.length < n) (on : s.chan.enabled = true) (ready : s.chan.txReady = true) :
    ∃ t, runHandler n (responseBuilt f bs es s) = .next t ∧
      RunOver script s₀ (channelShifts^[t.chan.tx.length] t) :=
  ⟨_, runHandler_responseBuilt hf hne es hn on ready,
    h.runOver_of_sent (isFrame_symbolEncode hne) on rfl (by simp [responseBuilt]) rfl⟩

/-- RECOVER leaves nothing in the buffers that were empty and the channel in Input mode, so that the run is over at
once. -/
theorem ScriptRead.runOver_recovered {script : List Byte} {s₀ s : State} (h : ScriptRead script s₀ s) :
    RunOver script s₀ (channelShifts^[(recovered s).chan.tx.length] (recovered s)) := by
  obtain ⟨⟨es, trace, read, silent⟩, noneReceived, emptyAtStart, empty, line⟩ := h
  have still_empty : (recovered s).chan.tx = [] := by simp [recovered, empty]
  rw [still_empty]
  exact {
    allRead := by simp [recovered, trace, read]; rfl
    listening := rfl
    blocked := by simp [recovered, noneReceived]
    shiftedOut := ⟨still_empty, [], by simp [recovered, trace, silent]; rfl,
      by simp [recovered, line, emptyAtStart]⟩
    backInInput := rfl }

/-- The state after FETCH of the opcode `b`. -/
def fetched (b : Byte) (rest : List Byte) (s : State) : State :=
  { s with
    opcode := b
    chan := { s.chan with rx := rest }
    trace := s.trace ++ [.rx b] }

theorem exec_poll_ends_script {s : State} (emptyAtStart : s.chan.tx = []) (on : s.chan.enabled = true)
    (ready : s.chan.txReady = true) (onTime : ¬ ReadsBeforeAnchor s) (p q : Byte) :
    ∃ t, exec (.poll p q) (fetched Config.opcPoll [p, q] s) = .next t ∧
      RunOver (encode (.poll p q)) s (channelShifts^[t.chan.tx.length] t) := by
  obtain ⟨u, hu⟩ | ⟨-, early⟩ :=
    pollTime_completes_or_refuses (payloadRead p q [] (fetched Config.opcPoll [p, q] s))
  · obtain ⟨u_chan, u_trace⟩ := pollTime_chan_trace hu
    rw [exec_poll_eq rfl, hu, andThen_next]
    have chan : (recordBuilt u).chan = { s.chan with rx := [] } := u_chan
    have trace : (recordBuilt u).trace = s.trace ++ [.rx Config.opcPoll, .rx p, .rx q, .now (nextReading s),
        .fetch u.frameR (rfsFetch u.params.rfs u.frameR)] := by
      simp [recordBuilt, responseBuilt, u_trace, payloadRead, fetched, nextReading]
    have read : ScriptRead (encode (.poll p q)) s (recordBuilt u) :=
      ⟨⟨_, trace, rfl, rfl⟩, by rw [chan], emptyAtStart, by rw [chan]; exact emptyAtStart, by rw [chan]⟩
    exact read.runOver_of_responseBuilt (.inr (.inr rfl)) (by simp) (by rw [recordBytesOf_length]; decide)
      (by rw [u_chan]; exact on) (by rw [u_chan]; exact ready)
  · exact absurd early onTime

/-- FETCH has read the opcode of the frame `i`, and the rest of the frame is all that the channel has received: the
meaning of `i` reads it, and its words, shifted out, end the run. -/
theorem exec_ends_script {i : Instr} {s : State} {b : Byte} {rest : List Byte} (bytes : encode i = b :: rest)
    (emptyAtStart : s.chan.tx = []) (on : s.chan.enabled = true) (ready : s.chan.txReady = true)
    (onTime : ¬ ReadsBeforeAnchor s) :
    ∃ t, exec i (fetched b rest s) = .next t ∧ RunOver (encode i) s (channelShifts^[t.chan.tx.length] t) := by
  cases i with
  | probe =>
    obtain ⟨rfl, rfl⟩ := List.cons.inj bytes
    rw [exec_probe_eq]
    have read : ScriptRead (encode .probe) s (responseBuilt .respondingProbe probePayload
      [.wait s.params.probeDelayUs] (fetched Config.opcProbe [] s)) :=
        ⟨⟨_, List.append_assoc .., rfl, rfl⟩, rfl, emptyAtStart, emptyAtStart, rfl⟩
    exact read.runOver_of_responseBuilt (.inl rfl) (by decide) (by decide) on ready
  | origin =>
    obtain ⟨rfl, rfl⟩ := List.cons.inj bytes
    rw [exec_origin_eq]
    have read : ScriptRead (encode .origin) s (responseBuilt .respondingOrigin originPayload []
      (fetched Config.opcOrigin [] s)) :=
        ⟨⟨_, List.append_assoc .., rfl, rfl⟩, rfl, emptyAtStart, emptyAtStart, rfl⟩
    exact read.runOver_of_responseBuilt (.inr (.inl rfl)) (by decide) (by decide) on ready
  | poll p q =>
    obtain ⟨rfl, rfl⟩ := List.cons.inj bytes
    exact exec_poll_ends_script emptyAtStart on ready onTime p q
  | recover op =>
    obtain ⟨rfl, rfl⟩ := List.cons.inj bytes
    have read : ScriptRead (encode (.recover op)) s (fetched op [] s) :=
      ⟨⟨_, rfl, rfl, rfl⟩, rfl, emptyAtStart, emptyAtStart, rfl⟩
    exact ⟨_, exec_recover_eq op _, read.runOver_recovered⟩

/-- A step at the opcode read, where the channel has received one whole frame and nothing else. -/
theorem step_ends_script {i : Instr} {s : State} (wf : i.wellFormed = true) (hp : s.pc = .idle)
    (noMove : s.agenda = []) (received : s.chan.rx = encode i) (emptyAtStart : s.chan.tx = [])
    (on : s.chan.enabled = true) (ready : s.chan.txReady = true) (onTime : ¬ ReadsBeforeAnchor s) :
    ∃ t, step s = .next t ∧ RunOver (encode i) s (channelShifts^[t.chan.tx.length] t) := by
  obtain ⟨b, rest, bytes⟩ : ∃ b rest, encode i = b :: rest := by cases i <;> exact ⟨_, _, rfl⟩
  have whole : decode (b :: rest) = .frame i [] := by
    rw [← bytes, ← List.append_nil (encode i)]
    exact decode_encode_append wf []
  rw [stepRunsTheDecodedFrame s b rest [] i hp noMove (received.trans bytes) whole]
  exact exec_ends_script bytes emptyAtStart on ready onTime

theorem RunOver.step_eq {script : List Byte} {s₀ s : State} (h : RunOver script s₀ s) (noMove : s.agenda = []) :
    step s = .next s :=
  silentHostLeavesTheStateAsItIs s noMove h.blocked (.inl h.listening)

/-- The bits of a word that was accepted are on the line when the run is over. -/
theorem RunOver.line_grew {script : List Byte} {s₀ s : State} (h : RunOver script s₀ s) {w : SymbolWord}
    {ws : List SymbolWord} (written : writtenWords s.trace = writtenWords s₀.trace ++ w :: ws) :
    s.chan.line ≠ s₀.chan.line := by
  obtain ⟨-, vs, written', line⟩ := h.shiftedOut
  obtain rfl : w :: ws = vs := List.append_cancel_left (written.symm.trans written')
  intro same
  have grown := congrArg List.length (same.symm.trans line)
  simp at grown

/-- A POLL without its whole payload: the step leads to the payload read that misses its byte (R188, R190). -/
theorem step_of_unfinished_poll {s : State} (hp : s.pc = .idle) (noMove : s.agenda = [])
    (received : s.chan.rx = [0x40] ∨ ∃ p, s.chan.rx = [0x40, p]) :
    ∃ t, step s = .next t ∧ t.agenda = [] ∧ t.chan.rx = [] ∧
      (t.pc = ⟨.respondingPoll, .pay0⟩ ∨ t.pc = ⟨.respondingPoll, .pay1⟩) := by
  rw [step_no_move noMove]
  obtain hr | ⟨p, hr⟩ := received <;> rw [runCommand_read hp hr]
  · exact ⟨_, (pollWaitsForItsPayload _ 0 0 0).1 rfl, noMove, rfl, .inl rfl⟩
  · exact ⟨_, (pollWaitsForItsPayload _ p 0 p).2 rfl, noMove, rfl, .inr rfl⟩

/-- Settles O59: the step handles the frame and the shifts empty the buffer; an over run waits for a byte; its line has
grown by every written word; and a POLL without its payload is not at the opcode read. -/
theorem theRunOfAScriptEnds : Obligations.TheRunOfAScriptEnds := by
  refine ⟨?frame, fun _ _ _ ended => ended.step_eq, ?dropped, ?unfinished⟩
  case frame =>
    intro i s wf hp noMove received empty _ on ready onTime
    exact step_ends_script wf hp noMove received empty on ready (not_readsBeforeAnchor onTime)
  case dropped =>
    intro script s₀ s w ws written same ended
    exact ended.line_grew written same
  case unfinished =>
    intro s hp noMove received
    obtain ⟨t, ht, noMove', silent, at_payload⟩ := step_of_unfinished_poll hp noMove received
    refine ⟨t, ht, silentHostLeavesTheStateAsItIs t noMove' silent (.inr at_payload), at_payload, ?_⟩
    intro script ended
    obtain hp' | hp' := at_payload <;> simp [ended.listening] at hp'

/-! ## The core always reads again (D29) -/

/-- A move is a step of the core, or it moves the channel and nothing else (R8). -/
theorem perform_cases {m : Move} {s t : State} (h : perform m s = .next t) :
    m = .corePhase ∧ phaseStep s = .next t ∨
      ∃ c, t = { s with chan := c } ∧ s.chan.MovedFrom c := by
  cases m with
  | corePhase => exact .inl ⟨rfl, h⟩
  | hostDrives b kept => exact .inr (Host.Outcome.next.inj h ▸ hostDrives_eq b kept s)
  | channelShifts => exact .inr (Host.Outcome.next.inj h ▸ channelShifts_eq s)
  | txReadyIs ready => exact .inr (Host.Outcome.next.inj h ▸ txReadyIs_eq ready s)

theorem StateInv.of_perform {m : Move} {s t : State} (inv : StateInv s) (h : perform m s = .next t) : StateInv t := by
  obtain ⟨-, hstep⟩ | ⟨c, rfl, on, configured⟩ := perform_cases h
  · exact (phaseStep_effect hstep).keepsInv inv
  · exact { inv with
      channelOn := on.trans inv.channelOn
      channelConfigured := configured.trans inv.channelConfigured }

theorem IsExecution.inv {run : Nat → State} {move : Nat → Move} (execution : IsExecution run move)
    (start : StateInv (run 0)) (n : Nat) : StateInv (run n) := by
  induction n with
  | zero => exact start
  | succ n ih => exact ih.of_perform (execution n)

theorem ne_idle_of_not_reading {s : State} (h : reading s = false) : s.pc ≠ .idle := by
  intro hp
  simp [reading, hp] at h

/-- Outside the reading phases the core waits in `tx` alone, for a channel that does not accept. -/
theorem waits_of_not_reading {s : State} (h : reading s = false) (hw : waits s = true) :
    s.pc.phase = .tx ∧ accepts s.chan = false := by
  obtain ⟨⟨hp, -⟩, ha⟩ := by simpa [waits, h] using hw
  exact ⟨hp, ha⟩

/-- The channel is enabled where the core writes (R172 g). -/
theorem StateInv.enabled_of_tx {s : State} (inv : StateInv s) (hp : s.pc.phase = .tx) : s.chan.enabled = true := by
  simp [inv.channelOn, Pc.channelOff, hp]

section
variable {run : Nat → State} {move : Nat → Move} (start : StateInv (run 0)) (execution : IsExecution run move)
include start execution

/-- The fairness premises of R189 and D29: a core that no longer reads takes a step in which it does not wait. -/
theorem exists_core_step_not_waiting (goesOn : CoreGoesOn move) (fair : ChannelIsFair run move)
    (output : WritesInOutputMode run) {n : Nat} (never : ∀ m, n ≤ m → reading (run m) = false) :
    ∃ m, n ≤ m ∧ move m = .corePhase ∧ waits (run m) = false := by
  obtain ⟨m, hm, core⟩ := goesOn n
  cases hw : waits (run m) with
  | false => exact ⟨m, hm, core, hw⟩
  | true =>
    obtain ⟨hp, -⟩ := waits_of_not_reading (never m hm) hw
    obtain ⟨k, hk, core', ha⟩ := fair m hp ((execution.inv start m).enabled_of_tx hp) (output m hp)
    refine ⟨k, hm.trans hk, core', Bool.eq_false_iff.2 fun hw' => ?_⟩
    obtain ⟨-, refuses⟩ := waits_of_not_reading (never k (hm.trans hk)) hw'
    simp [ha] at refuses

/-- A core step without a wait that does not lead to a reading phase leaves the handler fewer steps. -/
theorem phasesLeft_core_step_lt {n : Nat} (core : move n = .corePhase) (hw : waits (run n) = false)
    (now : reading (run n) = false) (next : reading (run (n + 1)) = false) :
    phasesLeft (run (n + 1)) < phasesLeft (run n) := by
  have hstep := execution n
  rw [core] at hstep
  have fewer := phaseStep_phasesLeft_lt hstep (ne_idle_of_not_reading now) hw (execution.inv start n).wordCountFits
  exact fewer.resolve_left (ne_idle_of_not_reading next)

/-- No move leaves the handler more steps, as long as the core does not read. -/
theorem phasesLeft_le_of_never_reading {n m : Nat} (never : ∀ m, n ≤ m → reading (run m) = false)
    (hm : n ≤ m) : phasesLeft (run m) ≤ phasesLeft (run n) := by
  induction m, hm using Nat.le_induction with
  | base => exact le_rfl
  | succ m hm ih =>
    refine le_trans ?_ ih
    obtain ⟨core, hstep⟩ | ⟨c, moved, -⟩ := perform_cases (execution m)
    · cases hw : waits (run m) with
      | true =>
        obtain ⟨-, same⟩ := (phasesFollowTheTable _ _ hstep).resolve_right (by simp [hw])
        rw [same]
      | false => exact (phasesLeft_core_step_lt start execution core hw (never m hm) (never _ (by omega))).le
    · rw [moved]
      exact le_rfl

end

/-- Settles O60: a core that no longer reads would for ever take steps that leave its handler fewer steps. -/
theorem theCoreReadsAgain : Obligations.TheCoreReadsAgain := by
  intro run move execution start goesOn fair output n
  induction hk : phasesLeft (run n) using Nat.strong_induction_on generalizing n with
  | _ k ih =>
    by_contra! unread
    have never : ∀ m, n ≤ m → reading (run m) = false := by simpa using unread
    obtain ⟨m, hm, core, hw⟩ := exists_core_step_not_waiting start execution goesOn fair output never
    have fewer := phasesLeft_core_step_lt start execution core hw (never m hm) (never _ (by omega))
    have no_more := phasesLeft_le_of_never_reading start execution never hm
    obtain ⟨j, hj, reads⟩ := ih _ (by omega) (m + 1) rfl
    exact unread j (by omega) reads

end Sys2Proof.Machine
end
